-- ==== Sys2Proof/Word.lean ====
section
/-! DEFINITION. The word types of the block (00_scope.md R8, R9): widths only, no arithmetic of its own. -/

namespace Sys2Proof

/-- A 16-bit word: an Angle (65536 units per turn), an operand, a coordinate or a result (R8: ANGLE_W, DATA_W). -/
abbrev Word16 := BitVec 16

/-- A 32-bit word: the working registers x and y (R8: XY_W; R14). -/
abbrev Word32 := BitVec 32

/-- The command word CMD[32:0] = op, B, A (R45). -/
abbrev CmdWord := BitVec 33

/-- The response word RSP[31:0] = R1, R0 (R46). -/
abbrev RspWord := BitVec 32

/-- The iteration index: the 4-bit register i takes the values 0..13 only (R17), and the arctangent table has
14 entries and no other address (R28, R35; 93_implementation_defined.md U16). -/
abbrev IterIndex := Fin 14

end Sys2Proof
end

