-- ==== Sys2Proof/Config.lean ====
section
/-! DEFINITION. The implementation parameters of 00_scope.md R8 that are sizes and counts. The numeric constants
a result depends on (the arctangent table, K_ROT, K_VEC, K_VEC_SHIFT) stand in Machine/Table.lean.
The spec leaves no value free: every parameter has one, so this file holds no opaque constant. -/

namespace Sys2Proof.Config

/-- N, the iteration count, which is the table length (R8; 92_eei_decisions.md D1). -/
abbrev iterations : Nat := 14

/-- AMPLITUDE: the integer that stands for the real number 1.0 (R8). -/
abbrev amplitude : Int := 30000

/-- One full turn in Angle units (R8, R12). -/
abbrev fullTurn : Int := 65536

/-- LATENCY: clock edges from the accepting edge to rsp_valid = 1, counting the accepting edge: N + 2 (R8, R77). -/
abbrev latency : Nat := iterations + 2

end Sys2Proof.Config
end

