-- ==== Sys2Proof/Syntax.lean ====
section
/-! DEFINITION. The instruction set: the two commands of 00_scope.md R3, one constructor per row of
spec/opcode_table.json. -/

namespace Sys2Proof

/-- A command as its two operand fields give it (30_encoding.md R45, R48).
Both operands are 16-bit ports, so no operand outside the 16-bit range can be presented (R6).
`sincos` keeps field B although the hardware ignores it (R50): no bit of a command word is dropped by decoding,
and that B has no effect is a fact about the machine, not about this type. -/
inductive Instr where
  /-- SINCOS: A = angle, B = the field the hardware ignores (R48, R50, R66). -/
  | sincos (angle b : Word16)
  /-- ATAN2SQRT: A = y, B = x, in the command's operand order (R48, R67, R71). -/
  | atan2sqrt (y x : Word16)
  deriving DecidableEq, Repr

end Sys2Proof
end

