-- ==== Sys2Proof/Machine/State.lean ====
section
/-! DEFINITION. The state of the machine (10_state.md R13 to R20, R27), the inputs the host drives
(30_encoding.md R44) and the closed sets of faults and refusals. -/

namespace Sys2Proof.Machine

/-- The register `mode` (R18): which direction rule and which result selection. -/
inductive Mode where
  /-- 0 = ROT, rotation mode: SINCOS. -/
  | rot
  /-- 1 = VEC, vectoring mode: ATAN2SQRT. -/
  | vec
  deriving DecidableEq, Repr

/-- The register `phase` (R17): three legal values. The 2-bit value 3 is never written and is unreachable, so
"a model makes `phase` a three-valued type" (43_pipeline_sequencer.md R72). DESIGN CHOICE as the spec directs (log 4). -/
inductive Phase where
  /-- 0 = IDLE: ready for a command. -/
  | idle
  /-- 1 = ITER: iteration number `i` is performed at the next edge. -/
  | iter
  /-- 2 = FINISH: the results are written at the next edge. -/
  | finish
  deriving DecidableEq, Repr

/-- The input ports as the host drives them at one rising edge of `clk` (R44; the inputs of R72). -/
structure Inputs where
  rst      : Bool
  cmdValid : Bool
  cmdOp    : BitVec 1
  cmdA     : Word16
  cmdB     : Word16
  deriving DecidableEq, Repr

/-- The CORDIC State of the pseudocode (00_scope.md R12; 40_cordic_engine.md R55): x and y as exact integers
(R9, R61 a), z as the 16-bit Angle it is (R15). -/
structure Triple where
  x : Int
  y : Int
  z : Word16
  deriving DecidableEq, Repr

/-- A response: the pair of results (R12, R16, R46). -/
structure Response where
  r0 : Word16
  r1 : Word16
  deriving DecidableEq, Repr

/-- The machine: the nine registers of R13, which are "the complete state of the block", and the host's inputs
for the edges to come.
The arctangent table and the gain constants are hardwired and never change (20_memory.md R29, R33), so they are
definitions (Machine/Table.lean) and no part of the state. -/
structure State where
  /-- `x`, 32 bits, signed: CORDIC state, first coordinate (R14). -/
  x        : Word32
  /-- `y`, 32 bits, signed: CORDIC state, second coordinate (R14). -/
  y        : Word32
  /-- `z`, 16 bits, signed, wraps modulo 65536: CORDIC state, angle (R15). -/
  z        : Word16
  /-- `i`, the iteration index 0..13 (R17). -/
  i        : IterIndex
  /-- `mode`, 1 bit (R18). -/
  mode     : Mode
  /-- `phase`, 2 bits, three legal values (R17). -/
  phase    : Phase
  /-- `r0`, 16 bits: first result, sin or atan2 (R16). -/
  r0       : Word16
  /-- `r1`, 16 bits: second result, cos or sqrt (R16). -/
  r1       : Word16
  /-- `rsp_valid`, the one flag (R19). -/
  rspValid : Bool
  /-- THE MODEL'S OWN FIELD, no register of the block: what the host drives on the input ports at the coming
  edges, the next edge first. The host is an agent of its own (R79); as plain data its behaviour is this list.
  DESIGN CHOICE (log 1): when the list is empty the ports are idle. -/
  inputs   : List Inputs
  deriving DecidableEq, Repr

/-- The reasons a step can stop with a fault. The set is empty: "The block raises no synchronous exception. The
set of exception causes is empty" (60_exceptions.md R83). Nobody raises one. -/
inductive Fault where
  deriving DecidableEq, Repr

/-- The reasons a step can be refused. -/
inductive Refusal where
  /-- Raised only by an arm of `exec` for an instruction that has no meaning yet. No arm is such an arm here, so
  nobody raises it; raising it would be safe. -/
  | notModelled (mnemonic : String)
  deriving DecidableEq, Repr

/-- The state after a reset step (R27), with no input listed yet. -/
def State.reset : State where
  x := 0#32
  y := 0#32
  z := 0#16
  i := 0
  mode := .rot
  phase := .idle
  r0 := 0#16
  r1 := 0#16
  rspValid := false
  inputs := []

end Sys2Proof.Machine
end

