-- ==== Sys2Proof/Machine/Ops.lean ====
section
/-! DEFINITION. The primitives of 00_scope.md R10 and the operations over the registers and the inputs.
The block takes no exception and returns from none (60_exceptions.md R83, R86, R87), so there is no operation for
either; it has no writable memory (R10: MemWrite is used by no rule). -/

namespace Sys2Proof.Machine

/-- sext_32(v): "the 32-bit signed value equal to the signed value of the 16-bit vector v" (R10), as the integer it
stands for. -/
def sext32 (v : Word16) : Int := (v.signExtend 32).toInt

/-- wrap16(n): "as bits, the low 16 bits of n in two's complement" (R10). -/
def wrap16 (n : Int) : Word16 := BitVec.ofInt 16 n

/-- asr(v, k): arithmetic right shift, floor(v / 2^k), rounding toward minus infinity (R10, R61 c). -/
def asr (v : Int) (k : Nat) : Int := v >>> k

/-- sgn(v): +1 if v >= 0, -1 if v < 0; never 0 (R10). -/
def sgn (v : Int) : Int := if 0 ≤ v then 1 else -1

/-- The working registers as a triple: x and y as the signed integers they hold (R14), z as it is. -/
def State.triple (s : State) : Triple := ⟨s.x.toInt, s.y.toInt, s.z⟩

/-- Write the working registers: x and y keep the low 32 bits of the exact result (R9: the narrowing is explicit;
R14: 32-bit two's complement), z is 16 bits already (R15). -/
def State.writeTriple (s : State) (t : Triple) : State :=
  { s with x := BitVec.ofInt 32 t.x, y := BitVec.ofInt 32 t.y, z := t.z }

/-- The result registers as a pair (R16). -/
def State.response (s : State) : Response := ⟨s.r0, s.r1⟩

/-- Write both result registers at one edge (R36: "the results are written whole"). -/
def State.writeResponse (s : State) (r : Response) : State := { s with r0 := r.r0, r1 := r.r1 }

/-- The ports when the host presents nothing: rst = 0, cmd_valid = 0. The other ports are not sampled then (R49). -/
def Inputs.idle : Inputs := ⟨false, false, 0#1, 0#16, 0#16⟩

/-- The inputs sampled at this edge: the first of the list, or idle ports where it is empty (log 1). -/
def State.sampled (s : State) : Inputs := s.inputs.headD Inputs.idle

/-- The state with this edge's inputs used up. -/
def State.advanceInputs (s : State) : State := { s with inputs := s.inputs.tail }

end Sys2Proof.Machine
end

