-- ==== Sys2Proof/Machine/Table.lean ====
section
/-! DEFINITION. The read-only arctangent table and the hardwired gain constants (20_memory.md R28 to R33, R37). -/

namespace Sys2Proof.Machine

/-- The 14 words of the arctangent table (R31). "A model uses these literals and not the formula of rule R30". -/
def atanTable : List Word16 :=
  [8192, 4836, 2555, 1297, 651, 326, 163, 81, 41, 20, 10, 5, 3, 1]

/-- The table read ATAN[i] (R10, R36): whole word, no side effect; the index type has the table's 14 addresses
and no other (R35). -/
def atan (i : IterIndex) : Word16 := atanTable.get i

/-- MemRead(addr, n) (R10): "the only memory is the table: MemRead(i, 2) = ATAN[i]; no other address exists". -/
def memRead (addr n : Nat) : Option Word16 := if n = 2 then atanTable[addr]? else none

/-- K_ROT, the rotation-mode initial x (R33). -/
def kRot : Int := 18218

/-- K_VEC, the vectoring-mode gain multiplier (R33). -/
def kVec : Int := 19898

/-- K_VEC_SHIFT, the right shift that goes with K_VEC (R33). -/
def kVecShift : Nat := 15

end Sys2Proof.Machine
end

