-- ==== Sys2Proof/Machine/Engine.lean ====
section
/-! DEFINITION. The shared CORDIC iteration engine (40_cordic_engine.md R54 to R59): units cordic_rotation_engine
(mode ROT) and cordic_vectoring_engine (mode VEC). The pseudocode's unbounded integers are Int (R9). -/

namespace Sys2Proof.Machine

/-- The direction d of an iteration, +1 or -1: sgn(z) in ROT mode (R56), -sgn(y) in VEC mode (R57). It is a
function of the current registers and is not stored (R21). -/
def direction (m : Mode) (y : Int) (z : Word16) : Int :=
  match m with
  | .rot => sgn z.toInt
  | .vec => -sgn y

/-- cordic_step(mode, i, x, y, z) (R55). All three results are computed from the old triple (R58). The table word
is read as a positive integer (R81). -/
def cordicStep (m : Mode) (i : IterIndex) (t : Triple) : Triple where
  x := t.x - direction m t.y t.z * asr t.y i
  y := t.y + direction m t.y t.z * asr t.x i
  z := wrap16 (t.z.toInt - direction m t.y t.z * (atan i).toNat)

/-- The iteration indices in the order of the run: "for i = 0 to 13" (R59). -/
def iterationOrder : List IterIndex := [0, 1, 2, 3, 4, 5, 6, 7, 8, 9, 10, 11, 12, 13]

/-- The triple before iteration k, (x_k, y_k, z_k) in the subscripts of R11: the first k iterations applied to the
initial triple. -/
def cordicUpTo (m : Mode) (t : Triple) (k : Nat) : Triple :=
  (iterationOrder.take k).foldl (fun u i => cordicStep m i u) t

/-- cordic_run(mode, x0, y0, z0): the step for i = 0, 1, ..., 13, exactly 14 times, whatever the data (R59). -/
def cordicRun (m : Mode) (t : Triple) : Triple :=
  iterationOrder.foldl (fun u i => cordicStep m i u) t

end Sys2Proof.Machine
end

