-- ==== Sys2Proof/WellFormed.lean ====
section
/-! DEFINITION. Well-formedness of instructions. -/

namespace Sys2Proof

/-- Every command is well formed: "Every one of the 2^33 command words is a legal command" (30_encoding.md R50),
and the operand widths are carried by the types. There is no check that a term of this type could fail;
the range checks the spec does have are on the operands of a program's text (R52) and stand in
Machine/HostAgent.lean (`Operand.wellFormed`). -/
def Instr.wellFormed (i : Instr) : Bool :=
  match i with
  | .sincos _ _ => true
  | .atan2sqrt _ _ => true

end Sys2Proof
end

