-- ==== Sys2Proof/Decode.lean ====
section
/-! DEFINITION. The opcode map, the decoder and the encoder (30_encoding.md R45, R47, R48, R50, R51). -/

namespace Sys2Proof

/-- One row of the opcode map (R48). -/
structure OpcodeRow where
  mnemonic  : String
  matchBits : CmdWord
  maskBits  : CmdWord
  deriving DecidableEq, Repr

/-- The row of SINCOS in the opcode map (R48). -/
def rowSincos : OpcodeRow := ⟨"SINCOS", 0x000000000#33, 0x100000000#33⟩

/-- The row of ATAN2SQRT in the opcode map (R48). -/
def rowAtan2sqrt : OpcodeRow := ⟨"ATAN2SQRT", 0x100000000#33, 0x100000000#33⟩

/-- The complete opcode map (R48). -/
def opcodeMap : List OpcodeRow := [rowSincos, rowAtan2sqrt]

/-- A command word belongs to a row when its masked bits are the row's match bits. -/
def OpcodeRow.covers (r : OpcodeRow) (w : CmdWord) : Bool := w &&& r.maskBits == r.matchBits

/-- The row an instruction belongs to. -/
def Instr.row (i : Instr) : OpcodeRow :=
  match i with
  | .sincos _ _ => rowSincos
  | .atan2sqrt _ _ => rowAtan2sqrt

/-- Field op = CMD[32] (R45). -/
def opField (w : CmdWord) : BitVec 1 := w.extractLsb' 32 1

/-- Field B = CMD[31:16] (R45). -/
def bField (w : CmdWord) : Word16 := w.extractLsb' 16 16

/-- Field A = CMD[15:0] (R45). -/
def aField (w : CmdWord) : Word16 := w.extractLsb' 0 16

/-- CMD[32:0] = op, B, A, with op in the most significant position (R45). -/
def packCmd (op : BitVec 1) (b a : Word16) : CmdWord := op ++ b ++ a

/-- The decoder. It "looks at CMD[32] and at nothing else" (R48); it is total, because every command word is
legal (R50), and it depends on no state (R51). -/
def decode (w : CmdWord) : Instr :=
  if opField w = 0#1 then .sincos (aField w) (bField w) else .atan2sqrt (aField w) (bField w)

/-- The encoder: the command word of an instruction (R45, R48, R52). -/
def encode (i : Instr) : CmdWord :=
  match i with
  | .sincos angle b => packCmd 0#1 b angle
  | .atan2sqrt y x => packCmd 1#1 x y

/-- Why a number given from outside is no command word. -/
inductive DecodeReject where
  /-- The number has a bit above CMD[32]: there are three command ports of 33 bits in all (R44, R45), so no such
  word can be presented. Rejecting it is safe. -/
  | aboveBit32
  deriving DecidableEq, Repr

/-- Decoding of any number: a 33-bit number is decoded, any other is rejected by name. -/
def decodeNumber (w : Nat) : Except DecodeReject Instr :=
  if w < 2 ^ 33 then .ok (decode (BitVec.ofNat 33 w)) else .error .aboveBit32

/-- The instruction the decoder reads from a table word whose low `nbits` bits are those of `w` and whose bits
above are 0. Bits are numbered as R45 numbers CMD; there is no byte order to apply (R34). -/
def decodeTableWord (nbits w : Nat) : Option Instr :=
  match decodeNumber (w % 2 ^ nbits) with
  | .ok i => some i
  | .error _ => none

end Sys2Proof
end

