-- ==== Sys2Proof/Machine/Operands.lean ====
section
/-! DEFINITION. Operands and result words: how the ports make a command word and a response word
(30_encoding.md R44 to R47), and the 1-bit and 2-bit forms of mode and phase (10_state.md R17, R18). -/

namespace Sys2Proof.Machine

/-- The command word on the ports: the value of cmd_op, cmd_b, cmd_a sampled at the edge (R45, R49). -/
def Inputs.cmdWord (p : Inputs) : CmdWord := packCmd p.cmdOp p.cmdB p.cmdA

/-- The ports with rst = 0, cmd_valid = 1 and a command word on the three command ports (R44, R45). -/
def Inputs.offerWord (w : CmdWord) : Inputs := ⟨false, true, opField w, aField w, bField w⟩

/-- The angle operand: "When the angle operand is loaded into z it is copied bit for bit" (R47). -/
def angleOperand (a : Word16) : Word16 := a

/-- A coordinate operand: sign-extended, "so that the register holds the same integer" (R47). -/
def coordinateOperand (v : Word16) : Int := sext32 v

/-- The mode the command's op bit selects: "0 = SINCOS gives ROT, 1 = ATAN2SQRT gives VEC" (R18). -/
def Mode.ofOp (op : BitVec 1) : Mode := if op = 0#1 then .rot else .vec

/-- The register mode as its 1 bit (R13). -/
def Mode.toBit (m : Mode) : BitVec 1 :=
  match m with
  | .rot => 0#1
  | .vec => 1#1

/-- The register phase as its 2 bits (R17). -/
def Phase.toBits (p : Phase) : BitVec 2 :=
  match p with
  | .idle => 0#2
  | .iter => 1#2
  | .finish => 2#2

/-- The register i as its 4 bits (R13). -/
def iterBits (i : IterIndex) : BitVec 4 := BitVec.ofNat 4 i

/-- RSP[31:0] = R1, R0, with R1 in the more significant position (R46). -/
def Response.word (r : Response) : RspWord := r.r1 ++ r.r0

end Sys2Proof.Machine
end

