-- ==== Sys2Proof/Machine/Atan2Sqrt.lean ====
section
/-! DEFINITION. The ATAN2SQRT command as a pure function (42_atan2_sqrt.md R67 to R71): unit atan_magnitude_unit. -/

namespace Sys2Proof.Machine

/-- atan2_init(y, x) (R68): pre-rotation by 180 degrees when x < 0; the negations are of the sign-extended values,
so -32768 negates exactly. -/
def atan2Init (y x : Word16) : Triple :=
  if 0 ≤ coordinateOperand x then ⟨coordinateOperand x, coordinateOperand y, 0#16⟩
  else ⟨-coordinateOperand x, -coordinateOperand y, 0x8000#16⟩

/-- gain_norm(xN) = floor(xN * 19898 / 32768) = asr(xN * K_VEC, K_VEC_SHIFT) (R69). -/
def gainNorm (xN : Int) : Int := asr (xN * kVec) kVecShift

/-- atan2_result(xN, yN, zN): atan2 = zN, sqrt = wrap16(gain_norm(xN)); yN is discarded (R70). No saturation: the
low 16 bits of the magnitude. r0 = atan2, r1 = sqrt (R16). -/
def atan2Result (t : Triple) : Response := ⟨t.z, wrap16 (gainNorm t.x)⟩

/-- ATAN2SQRT(y, x) as a whole (R71). -/
def atan2sqrt (y x : Word16) : Response := atan2Result (cordicRun .vec (atan2Init y x))

end Sys2Proof.Machine
end

