-- ==== Sys2Proof/Machine/Flags.lean ====
section
/-! DEFINITION. The one flag, rsp_valid (10_state.md R19), and the output ports (R20, 30_encoding.md R44).
There are no arithmetic condition codes: "no carry, zero, negative or overflow flag is kept" (R19). -/

namespace Sys2Proof.Machine

/-- The LOAD step clears rsp_valid: a command is accepted (R19, R73). -/
def State.clearRspValid (s : State) : State := { s with rspValid := false }

/-- The FINISH step sets rsp_valid (R19, R76). -/
def State.setRspValid (s : State) : State := { s with rspValid := true }

/-- Output cmd_ready = 1 exactly when phase = IDLE (R20, R44). It is a function of phase and no state. -/
def State.cmdReady (s : State) : Bool := s.phase == .idle

/-- Output busy = 1 when phase is not IDLE (R20). -/
def State.busy (s : State) : Bool := s.phase != .idle

/-- The output ports (R44). -/
structure Outputs where
  cmdReady : Bool
  busy     : Bool
  rspValid : Bool
  rspR0    : Word16
  rspR1    : Word16
  deriving DecidableEq, Repr

/-- What the host sees: "the host observes `phase` only through `cmd_ready` and `busy`, and `i` and `mode` not at
all" (R22, R25, R44). -/
def State.outputs (s : State) : Outputs := ⟨s.cmdReady, s.busy, s.rspValid, s.r0, s.r1⟩

end Sys2Proof.Machine
end

