-- ==== Sys2Proof/Machine/SinCos.lean ====
section
/-! DEFINITION. The SINCOS command as a pure function (41_sin_cos.md R63 to R66): unit sin_cos_generator. -/

namespace Sys2Proof.Machine

/-- flip = a[15] xor a[14]: "1 exactly when a >= 16384 or a <= -16385" (R64). -/
def sincosFlip (a : Word16) : Bool := a.getLsbD 15 ^^ a.getLsbD 14

/-- sincos_init(a) (R64): the start vector, turned by 180 degrees where the angle lies in the left half-plane. -/
def sincosInit (a : Word16) : Triple :=
  if sincosFlip (angleOperand a) then ⟨-kRot, 0, angleOperand a ^^^ 0x8000#16⟩ else ⟨kRot, 0, angleOperand a⟩

/-- sincos_result(xN, yN, zN): sin = wrap16(yN), cos = wrap16(xN); zN is discarded (R65). r0 = sin, r1 = cos (R16). -/
def sincosResult (t : Triple) : Response := ⟨wrap16 t.y, wrap16 t.x⟩

/-- SINCOS(a) as a whole (R66). -/
def sincos (a : Word16) : Response := sincosResult (cordicRun .rot (sincosInit a))

end Sys2Proof.Machine
end

