-- ==== Sys2Proof/Machine/Sequencer.lean ====
section
/-! DEFINITION. The steps of the sequencer (43_pipeline_sequencer.md R72 to R76; 70_reset_and_hazards.md R94):
unit fixed_point_trig_pipeline. Each is a function of the state, one clock edge; none touches the inputs still to
come. -/

namespace Sys2Proof.Machine

/-- RESET (R94): every register takes its reset value (R27). -/
def resetStep (s : State) : State := { State.reset with inputs := s.inputs }

/-- LOAD (R73): mode, the working triple, i, phase and rsp_valid are written; r0 and r1 are left unchanged. -/
def loadStep (m : Mode) (t : Triple) (s : State) : State :=
  { (s.writeTriple t).clearRspValid with mode := m, i := 0, phase := .iter }

/-- HOLD (R74): no register changes. -/
def holdStep (s : State) : State := s

/-- ITER (R75): iteration number i; after the last one i stays 13 and phase becomes FINISH. -/
def iterStep (s : State) : State :=
  if s.i = 13 then { s.writeTriple (cordicStep s.mode s.i s.triple) with phase := .finish }
  else { s.writeTriple (cordicStep s.mode s.i s.triple) with i := s.i + 1 }

/-- The result selection of the FINISH step (R76): R65 in ROT mode, R70 in VEC mode. -/
def selectResult (m : Mode) (t : Triple) : Response :=
  match m with
  | .rot => sincosResult t
  | .vec => atan2Result t

/-- FINISH (R76): r0, r1 and rsp_valid change at the same edge, and phase becomes IDLE. -/
def finishStep (s : State) : State :=
  { (s.writeResponse (selectResult s.mode s.triple)).setRspValid with phase := .idle }

/-- The block's own step at an edge with rst = 0 at which no command is accepted: HOLD, ITER or FINISH by phase
(R72). -/
def ownStep (s : State) : State :=
  match s.phase with
  | .idle => holdStep s
  | .iter => iterStep s
  | .finish => finishStep s

/-- An edge with rst = 0 and cmd_valid = 1, the command having mode m and initial triple t: in phase IDLE it is
accepted (LOAD); in phase ITER or FINISH "the block's own step is performed and `cmd_valid` is ignored"
(60_exceptions.md R85; 70_reset_and_hazards.md R97). -/
def offerStep (m : Mode) (t : Triple) (s : State) : State :=
  match s.phase with
  | .idle => loadStep m t s
  | .iter => ownStep s
  | .finish => ownStep s

end Sys2Proof.Machine
end

