-- ==== Sys2Proof/Machine/Commands.lean ====
section
/-! DEFINITION. The meaning of each command: what one clock edge does at which the host presents it
(rst = 0, cmd_valid = 1), and what the command computes as a whole. -/

namespace Sys2Proof.Machine

/-- The mode of a command: its op bit (R18, R73). -/
def commandMode (i : Instr) : Mode :=
  match i with
  | .sincos _ _ => .rot
  | .atan2sqrt _ _ => .vec

/-- The initial triple of a command (R73). -/
def commandInit (i : Instr) : Triple :=
  match i with
  | .sincos angle _ => sincosInit angle
  | .atan2sqrt y x => atan2Init y x

/-- The response to a command, a pure function of its command word (R26, R78). -/
def commandResponse (i : Instr) : Response :=
  match i with
  | .sincos angle _ => sincos angle
  | .atan2sqrt y x => atan2sqrt y x

/-- SINCOS presented at an edge (R49, R66, R73): accepted in phase IDLE, with the initial triple of R64; field B is
not read (R50). -/
def execSincos (angle _b : Word16) (s : State) : Host.Outcome State Fault Refusal :=
  .next (offerStep .rot (sincosInit angle) s)

/-- ATAN2SQRT presented at an edge (R49, R71, R73): accepted in phase IDLE, with the initial triple of R68. -/
def execAtan2sqrt (y x : Word16) (s : State) : Host.Outcome State Fault Refusal :=
  .next (offerStep .vec (atan2Init y x) s)

end Sys2Proof.Machine
end

