-- ==== Sys2Proof/Machine/Dispatch.lean ====
section
/-! DEFINITION. The one dispatch over instructions: what one clock edge does at which the host presents the command
with rst = 0 and cmd_valid = 1 (30_encoding.md R48, R49). -/

namespace Sys2Proof.Machine

def exec (i : Instr) (s : State) : Host.Outcome State Fault Refusal :=
  match i with
  | .sincos angle b => Sys2Proof.Machine.execSincos angle b s
  | .atan2sqrt y x => Sys2Proof.Machine.execAtan2sqrt y x s

end Sys2Proof.Machine
end

