-- ==== Sys2Proof/Machine/Step.lean ====
section
/-! DEFINITION. One step of the machine: one rising edge of clk (43_pipeline_sequencer.md R72). -/

namespace Sys2Proof.Machine

/-- One rising edge of clk (R72): the inputs of this edge are sampled, and exactly one of RESET, LOAD, HOLD, ITER and
FINISH is performed. rst = 1 wins over everything (R85, R95); otherwise a command presented with cmd_valid = 1 is
decoded and run (LOAD where it is accepted, the block's own step where the block is busy); otherwise the block's own
step is performed. -/
def step (s : State) : Host.Outcome State Fault Refusal :=
  if s.sampled.rst then .next (resetStep s.advanceInputs)
  else if s.sampled.cmdValid then exec (decode s.sampled.cmdWord) s.advanceInputs
  else .next (ownStep s.advanceInputs)

/-- The state whose very next step is presented the command word with bits `w` (bits above `nbits` zero) and accepts
it: the ports of the next edge carry it with rst = 0 and cmd_valid = 1 (R49), and phase is IDLE, the one phase in
which a command is accepted. The inputs of later edges stay as they are. The block fetches no program (R1, R17): a
program comes from the host, command by command (log 2). -/
def State.withFetchWord (s : State) (nbits w : Nat) : State :=
  { s with
    phase := .idle
    inputs := Inputs.offerWord (BitVec.ofNat 33 (w % 2 ^ nbits)) :: s.inputs.tail }

end Sys2Proof.Machine
end

