-- ==== Sys2Proof/Machine/HostAgent.lean ====
section
/-! DEFINITION. The host, the second agent of 43_pipeline_sequencer.md R79: the text form of a command
(30_encoding.md R52), how it becomes a command word, and how a host that waits for each response issues a program
(70_reset_and_hazards.md R97, R98). Nothing the block does depends on this file. -/

namespace Sys2Proof.Machine

/-- An operand of a program line (R52): decimal, a 16-bit pattern in hexadecimal, or "the value the host read from
that result register after the previous command". R52 and R98 do not say what r0 and r1 mean on a program's first line,
which has no previous command: see `issueLine` (log 12, DESIGN CHOICE). -/
inductive Operand where
  | dec (n : Int)
  | hex (p : Nat)
  | r0
  | r1
  deriving DecidableEq, Repr

/-- A line of a program (R52). There are no pseudo-instructions (R53). -/
inductive Line where
  /-- `SINCOS <angle>` -/
  | sincos (angle : Operand)
  /-- `ATAN2SQRT <y>, <x>` -/
  | atan2sqrt (y x : Operand)
  deriving DecidableEq, Repr

/-- "A program is a finite list of such lines" (R52, R79). -/
abbrev Program := List Line

/-- An operand fits its 16-bit port: a decimal is in -32768..32767 (R47), a pattern has at most 16 bits (R52). -/
def Operand.wellFormed (o : Operand) : Bool :=
  match o with
  | .dec n => decide (-32768 ≤ n ∧ n ≤ 32767)
  | .hex p => decide (p < 65536)
  | .r0 => true
  | .r1 => true

/-- A line is well formed when its operands are. -/
def Line.wellFormed (l : Line) : Bool :=
  match l with
  | .sincos a => a.wellFormed
  | .atan2sqrt y x => y.wellFormed && x.wellFormed

/-- The 16-bit value of an operand, given the response read last (R52). -/
def Operand.value (o : Operand) (last : Response) : Word16 :=
  match o with
  | .dec n => wrap16 n
  | .hex p => BitVec.ofNat 16 p
  | .r0 => last.r0
  | .r1 => last.r1

/-- The assembler: "The assembler writes 0x0000 into field B of SINCOS" (R52). -/
def Line.assemble (l : Line) (last : Response) : Instr :=
  match l with
  | .sincos a => .sincos (a.value last) 0#16
  | .atan2sqrt y x => .atan2sqrt (y.value last) (x.value last)

/-- The host presents one command and waits for its response: the command word at one edge, then idle ports at the
15 edges after it, which end with the FINISH step (R77, R98). The operands r0 and r1 are read from the response
ports before the command is issued.
DESIGN CHOICE (log 12, unsafe): on a program's first line there is no previous command, and rsp_valid may be 0; R52 and
R98 are silent there. The model takes what r0 and r1 hold in the start state, without looking at rsp_valid (0 right
after reset, by R27). From phase IDLE, on every later line rsp_valid = 1 and the operands are R52's.
DESIGN CHOICE (log 13, unsafe): the premise is that `s` is in phase IDLE (cmd_ready = 1), as after one reset step, the
start state of the spec's programs. The command is offered for one edge without looking at cmd_ready, and replaces
whatever inputs `s` lists. From a busy `s` the offer is lost (R97) and the response that shows 16 edges later is that of
the command in flight. Every line after the first starts in phase IDLE where the first did. -/
def issueLine (l : Line) (s : State) : Host.Outcome State Fault Refusal :=
  Host.Core.run Sys2Proof.core Config.latency
    { s with inputs := [Inputs.offerWord (encode (l.assemble s.response))] }

/-- The host issues the lines of a program in order, each after the response of the one before (R52, R98), and
collects the responses, one per command (R79). An operand r0 or r1 of the first line is the start state's (log 12).
The premise is that `s` is in phase IDLE; from a busy `s` the first line's command is lost (log 13, DESIGN CHOICE). -/
def runProgram (p : Program) (s : State) : Host.Outcome (State × List Response) Fault Refusal :=
  match p with
  | [] => .next (s, [])
  | l :: rest =>
    match issueLine l s with
    | .fault r => .fault r
    | .refused r => .refused r
    | .next t =>
      match runProgram rest t with
      | .fault r => .fault r
      | .refused r => .refused r
      | .next (u, collected) => .next (u, t.response :: collected)

/-- A run is over "when every command of the list has been accepted and `phase` = IDLE and `rsp_valid` = 1" (R79);
`left` is what the host has still to issue. -/
def runOver (left : Program) (s : State) : Bool := left.isEmpty && s.cmdReady && s.rspValid

end Sys2Proof.Machine
end

