-- ==== Sys2Proof/Safety.lean ====
section
/-! DEFINITION. What the claims are about: the states a run can be in, and schedules of inputs. Nothing here changes
what the machine does. -/

namespace Sys2Proof.Machine

/-- The registers mode, x, y and z hold what command `c` has computed after its first `k` iterations (R11, R25). -/
def State.holdsIterate (s : State) (c : Instr) (k : Nat) : Prop :=
  s.mode = commandMode c ∧ s.triple = cordicUpTo (commandMode c) (commandInit c) k

/-- Every register of R13 has its reset value (R27). -/
def State.registersAtReset (s : State) : Prop := { s with inputs := [] } = State.reset

/-- What is true of the registers after any reset step and any number of further steps, in terms of the commands
alone (R17, R19, R25, R26, R75, R76):
in phase IDLE without a valid response every register is at its reset value; in phase IDLE with a valid response the
registers hold the final triple and the response of one command; in phases ITER and FINISH rsp_valid is 0 and the
registers hold the partial results of one command, all 14 iterations of it in phase FINISH. -/
def State.Traceable (s : State) : Prop :=
  match s.phase with
  | .idle =>
    if s.rspValid then
      ∃ c : Instr, s.holdsIterate c 14 ∧ s.i = 13 ∧ s.response = commandResponse c
    else s.registersAtReset
  | .iter => s.rspValid = false ∧ ∃ c : Instr, s.holdsIterate c s.i
  | .finish => s.rspValid = false ∧ s.i = 13 ∧ ∃ c : Instr, s.holdsIterate c 14

/-- The block in phase IDLE is offered command `c` at the next edge, and not reset at it: the edge that accepts it
(R49). -/
def State.accepts (s : State) (c : Instr) : Prop :=
  s.phase = .idle ∧ s.sampled.rst = false ∧ s.sampled.cmdValid = true ∧ s.sampled.cmdWord = encode c

/-- The next `n` edges are listed, with rst = 0 at each of them; their other inputs are arbitrary. -/
def State.noResetFor (s : State) (n : Nat) : Prop := n ≤ s.inputs.length ∧ ∀ p ∈ s.inputs.take n, p.rst = false

/-- The next `n` edges are listed, with rst = 0 and no command presented at each of them. -/
def State.quietFor (s : State) (n : Nat) : Prop :=
  n ≤ s.inputs.length ∧ ∀ p ∈ s.inputs.take n, p.rst = false ∧ p.cmdValid = false

/-- The state after `n` edges (R72). -/
def State.afterEdges (s : State) (n : Nat) : Host.Outcome State Fault Refusal :=
  Host.Core.run Sys2Proof.core n s

end Sys2Proof.Machine
end

