-- ==== Sys2Proof/Certificates/Slice0/Obligations.lean ====
section
/-! DEFINITION. The statements for the provers, from the numbered rules of spec/. The right sides are written out
from the rules (integer division for asr, literal constants, port fields) where that keeps a statement independent of
the model's own definitions. The block has no memory but its constant table, so a frame has no clause on memory. -/

open Sys2Proof Sys2Proof.Machine

/-! ### Encoding (30_encoding.md) -/

/-- R45, R48, R50, R51: decoding and encoding are inverse to one another, so every one of the 2^33 command words is the
word of exactly one well-formed command and no operand bit is dropped or moved. -/
def Obligations.DecodeAndEncodeAreInverse : Prop :=
  (∀ i : Instr, i.wellFormed = true → decode (encode i) = i) ∧
  (∀ w : CmdWord, (decode w).wellFormed = true ∧ encode (decode w) = w)

/-- R45, R48: words written out from the encoding decode to the command they stand for. -/
def Obligations.WrittenOutWordsDecode : Prop :=
  decode 0x000002000#33 = .sincos 0x2000#16 0x0000#16 ∧
  decode 0x0FFFF2000#33 = .sincos 0x2000#16 0xFFFF#16 ∧
  decode 0x152DD52DE#33 = .atan2sqrt 0x52DE#16 0x52DD#16 ∧
  decode 0x1F0600BB8#33 = .atan2sqrt 0x0BB8#16 0xF060#16

/-- R48, R51: the opcode map is complete and its two rows do not overlap; each word decodes to the command of the row
that covers it, with A = CMD[15:0] and B = CMD[31:16], and CMD[32] alone decides which. -/
def Obligations.OpcodeMapDecidesByBit32 : Prop :=
  ∀ w : CmdWord,
    (w &&& 0x100000000#33 = 0x000000000#33 ↔ w &&& 0x100000000#33 ≠ 0x100000000#33) ∧
    (w &&& 0x100000000#33 = 0x000000000#33 ↔ w.getLsbD 32 = false) ∧
    (w &&& 0x100000000#33 = 0x000000000#33 → rowSincos.covers w = true ∧
      decode w = .sincos (w.extractLsb' 0 16) (w.extractLsb' 16 16)) ∧
    (w &&& 0x100000000#33 = 0x100000000#33 → rowAtan2sqrt.covers w = true ∧
      decode w = .atan2sqrt (w.extractLsb' 0 16) (w.extractLsb' 16 16))

/-- R50: every command word is a legal command that runs in every state, and for SINCOS field B is ignored: any two
values of it give the same next state. -/
def Obligations.EveryWordRunsAndSincosIgnoresFieldB : Prop :=
  (∀ (w : CmdWord) (s : State), (decode w).wellFormed = true ∧ ∃ t, exec (decode w) s = .next t) ∧
  (∀ (angle b b' : Word16) (s : State), exec (.sincos angle b) s = exec (.sincos angle b') s) ∧
  (∀ angle b b' : Word16, commandResponse (.sincos angle b) = commandResponse (.sincos angle b'))

/-- R46: R1 is in the more significant half of the response word, R0 in the less significant half. -/
def Obligations.ResponseWordHoldsBothResults : Prop :=
  ∀ r : Response, r.word.extractLsb' 0 16 = r.r0 ∧ r.word.extractLsb' 16 16 = r.r1

/-- R52: the assembler writes CMD = {0, 0x0000, angle} for SINCOS and {1, x, y} for ATAN2SQRT. -/
def Obligations.AssemblerPacksTheCommandWord : Prop :=
  ∀ (a y x : Operand) (last : Response),
    encode ((Line.sincos a).assemble last) = packCmd 0#1 0x0000#16 (a.value last) ∧
    encode ((Line.atan2sqrt y x).assemble last) = packCmd 1#1 (x.value last) (y.value last) ∧
    Operand.r0.value last = last.r0 ∧ Operand.r1.value last = last.r1

/-! ### The table and the constants (20_memory.md) -/

/-- R30: each entry is the integer nearest to atan(2^-i) * 65536 / (2 * pi), and no entry is a tie. -/
def Obligations.TableEntriesAreNearestArctangents : Prop :=
  ∀ i : IterIndex,
    |((atan i).toNat : ℝ) - Real.arctan ((2 : ℝ)⁻¹ ^ (i : ℕ)) * 65536 / (2 * Real.pi)| < 1 / 2

/-- R32: every entry is positive, the table is strictly decreasing, and its sum is 18181 units; at no index beyond the
table is there a word to read (R28). -/
def Obligations.TableDecreasesAndSumsToItsReach : Prop :=
  (∀ i : IterIndex, 0 < (atan i).toInt) ∧
  (∀ i j : IterIndex, i < j → (atan j).toInt < (atan i).toInt) ∧
  (∑ i : IterIndex, (atan i).toInt) = 18181 ∧
  (∀ i : IterIndex, memRead i 2 = some (atan i)) ∧
  (∀ a n : ℕ, 14 ≤ a ∨ n ≠ 2 → memRead a n = none)

/-- R33: with A the product of sqrt(1 + 2^(-2i)) for i = 0..13, K_ROT is 30000 / A and K_VEC is 2^15 / A, each rounded
to the nearest integer. -/
def Obligations.GainConstantsAreRoundedReciprocals : Prop :=
  let A : ℝ := ∏ i : IterIndex, Real.sqrt (1 + ((2 : ℝ)⁻¹) ^ (2 * (i : ℕ)))
  |A - 1.6467602540| < 1 / 10 ^ 9 ∧
  |(kRot : ℝ) - 30000 / A| < 1 / 2 ∧ |(kVec : ℝ) - 2 ^ 15 / A| < 1 / 2 ∧
  kRot = 18218 ∧ kVec = 19898 ∧ kVecShift = 15

/-! ### The engine (40_cordic_engine.md) -/

/-- R59: the run is the step for i = 0, 1, ..., 13 in that order, 14 times whatever the data; with the rule's two
worked examples. -/
def Obligations.RunIsFourteenStepsInOrder : Prop :=
  (∀ m t, cordicUpTo m t 0 = t) ∧
  (∀ m t (i : IterIndex), cordicUpTo m t (i + 1) = cordicStep m i (cordicUpTo m t i)) ∧
  (∀ m t, cordicRun m t = cordicUpTo m t 14) ∧
  cordicRun .rot ⟨18218, 0, 8192#16⟩ = ⟨21213, 21214, 1#16⟩ ∧
  cordicRun .vec ⟨0, 30000, 0#16⟩ = ⟨49404, 5, 16383#16⟩

/-- R60 (its bound): for every command and before and after every iteration, |x| and |y| are at most 76,400, so the
32-bit registers never overflow. -/
def Obligations.WorkingCoordinatesStayBounded : Prop :=
  ∀ (c : Instr) (k : ℕ), k ≤ 14 →
    |(cordicUpTo (commandMode c) (commandInit c) k).x| ≤ 76400 ∧
    |(cordicUpTo (commandMode c) (commandInit c) k).y| ≤ 76400

/-- R15 (why 16 bits are enough for z): in a SINCOS run |z| is at most 16384 before and after every iteration, and no
update of z wraps. -/
def Obligations.RotationAngleNeverWraps : Prop :=
  ∀ (a : Word16) (i : IterIndex),
    let t := cordicUpTo .rot (sincosInit a) i
    |t.z.toInt| ≤ 16384 ∧
    (cordicStep .rot i t).z.toInt = t.z.toInt - (if 0 ≤ t.z.toInt then 1 else -1) * ((atan i).toNat : ℤ) ∧
    |(cordicStep .rot i t).z.toInt| ≤ 16384

/-! ### SINCOS (41_sin_cos.md) -/

/-- R64: the initial triple, by the value of the angle. -/
def Obligations.SincosInitialTriple : Prop :=
  ∀ a : Word16,
    (sincosFlip a = true ↔ 16384 ≤ a.toInt ∨ a.toInt ≤ -16385) ∧
    (sincosFlip a = false → sincosInit a = ⟨18218, 0, a⟩) ∧
    (sincosFlip a = true → sincosInit a = ⟨-18218, 0, BitVec.ofInt 16 (a.toInt + 32768)⟩ ∧
      BitVec.ofInt 16 (a.toInt + 32768) = BitVec.ofInt 16 (a.toInt - 32768)) ∧
    -16384 ≤ (sincosInit a).z.toInt ∧ (sincosInit a).z.toInt ≤ 16383

/-- R65: sin is yN and cos is xN; for every operand both are at most 30,004 in magnitude, so the narrowing to 16 bits
never changes a value; the residual angle lies between -2 and +1. -/
def Obligations.SincosResultIsNeverNarrowed : Prop :=
  ∀ a : Word16,
    let t := cordicRun .rot (sincosInit a)
    |t.x| ≤ 30004 ∧ |t.y| ≤ 30004 ∧
    (sincos a).r0.toInt = t.y ∧ (sincos a).r1.toInt = t.x ∧
    -2 ≤ t.z.toInt ∧ t.z.toInt ≤ 1

/-- R66, corner case 3, and the source's property E1 (95_test_vectors.md section 1): over all operands
sqrt(sin^2 + cos^2) lies between 29992.5 and 30008.3, so the squares are within 1 percent of 30000^2. -/
def Obligations.SincosAmplitudeIsNearUnit : Prop :=
  ∀ a : Word16,
    let q := (sincos a).r0.toInt ^ 2 + (sincos a).r1.toInt ^ 2
    59985 ^ 2 ≤ 4 * q ∧ 100 * q ≤ 300083 ^ 2 ∧ 100 * |q - 30000 ^ 2| ≤ 30000 ^ 2

/-- R63 ("sin is about 30000 * sin(2 pi a / 65536)"), with the tolerance of the source's property E1, 1 percent of unit
amplitude, named by this statement (93_implementation_defined.md U11). -/
def Obligations.SincosApproximatesSineAndCosine : Prop :=
  ∀ a : Word16,
    |((sincos a).r0.toInt : ℝ) - 30000 * Real.sin (2 * Real.pi * (a.toInt : ℝ) / 65536)| ≤ 300 ∧
    |((sincos a).r1.toInt : ℝ) - 30000 * Real.cos (2 * Real.pi * (a.toInt : ℝ) / 65536)| ≤ 300

/-- R66: SINCOS presented in phase IDLE is accepted, and 15 edges later, if rst = 0 at them and whatever else is on the
ports, its whole effect is there: r0 = sin, r1 = cos, rsp_valid = 1, the working registers hold the final triple and
the block is ready again. -/
def Obligations.SincosCompletes : Prop :=
  ∀ (angle b : Word16) (s : State), s.phase = .idle → s.noResetFor 15 →
    ∃ t u, exec (.sincos angle b) s = .next t ∧
      t.mode = .rot ∧ t.triple = sincosInit angle ∧ t.i = 0 ∧ t.phase = .iter ∧ t.rspValid = false ∧
      t.response = s.response ∧ t.inputs = s.inputs ∧
      t.afterEdges 15 = .next u ∧
      u.r0 = BitVec.ofInt 16 (cordicRun .rot (sincosInit angle)).y ∧
      u.r1 = BitVec.ofInt 16 (cordicRun .rot (sincosInit angle)).x ∧
      u.rspValid = true ∧ u.phase = .idle ∧ u.mode = .rot ∧ u.i = 13 ∧
      u.triple = cordicRun .rot (sincosInit angle) ∧ u.inputs = s.inputs.drop 15

/-! ### ATAN2SQRT (42_atan2_sqrt.md) -/

/-- R68: the initial triple, by the sign of x; x0 >= 0 always. -/
def Obligations.Atan2InitialTriple : Prop :=
  ∀ y x : Word16,
    (0 ≤ x.toInt → atan2Init y x = ⟨x.toInt, y.toInt, 0#16⟩) ∧
    (x.toInt < 0 → atan2Init y x = ⟨-x.toInt, -y.toInt, BitVec.ofInt 16 (-32768)⟩ ∧
      1 ≤ (atan2Init y x).x ∧ (atan2Init y x).x ≤ 32768 ∧
      -32767 ≤ (atan2Init y x).y ∧ (atan2Init y x).y ≤ 32768) ∧
    0 ≤ (atan2Init y x).x

/-- R69: the gain normalisation is floor(xN * 19898 / 32768); xN never falls below x0 >= 0, the product fits a signed
32-bit intermediate, and the multiplication is a sum of six shifted copies. -/
def Obligations.GainNormalisationFitsItsIntermediate : Prop :=
  (∀ y x : Word16,
    let t := cordicRun .vec (atan2Init y x)
    0 ≤ (atan2Init y x).x ∧ (atan2Init y x).x ≤ t.x ∧ t.x ≤ 76400 ∧
    t.x * 19898 ≤ 1520207200 ∧ t.x * 19898 < 2 ^ 31 ∧
    0 ≤ gainNorm t.x ∧ gainNorm t.x ≤ 46400) ∧
  (∀ n : ℤ, gainNorm n = n * 19898 / 32768) ∧
  (∀ n : ℤ, n * 19898 = n * 2 ^ 14 + n * 2 ^ 12 - n * 2 ^ 9 - n * 2 ^ 6 - n * 2 ^ 3 + n * 2 ^ 1) ∧
  gainNorm 49404 = 30000

/-- R70: atan2 is zN; sqrt is the low 16 bits of the magnitude m: m itself up to 32767, m - 65536 above, with no
saturation; at x = y = -32768, m is 46,339. -/
def Obligations.MagnitudeWrapsWithoutSaturation : Prop :=
  (∀ y x : Word16,
    let t := cordicRun .vec (atan2Init y x)
    (atan2sqrt y x).r0 = t.z ∧
    (gainNorm t.x ≤ 32767 → (atan2sqrt y x).r1.toInt = gainNorm t.x) ∧
    (32768 ≤ gainNorm t.x → (atan2sqrt y x).r1.toInt = gainNorm t.x - 65536)) ∧
  gainNorm (cordicRun .vec (atan2Init 0x8000#16 0x8000#16)).x = 46339

/-- R67 ("sqrt is about the length sqrt(x^2 + y^2)"), for every operand pair, with a tolerance of 64 units on the
magnitude before narrowing, named by this statement (93_implementation_defined.md U11). -/
def Obligations.MagnitudeApproximatesLength : Prop :=
  ∀ y x : Word16,
    |(gainNorm (cordicRun .vec (atan2Init y x)).x : ℝ)
      - Real.sqrt ((x.toInt : ℝ) ^ 2 + (y.toInt : ℝ) ^ 2)| ≤ 64

/-- R100 (a): a host that keeps the true length at or below 32700 gets the magnitude itself as the sqrt result, unwrapped
and within 64 units of the true length (the spec calls 32700 evidence and no proved bound; the 64 is this statement's). -/
def Obligations.LengthsUpTo32700DoNotWrap : Prop :=
  ∀ y x : Word16, x.toInt ^ 2 + y.toInt ^ 2 ≤ 32700 ^ 2 →
    (atan2sqrt y x).r1.toInt = gainNorm (cordicRun .vec (atan2Init y x)).x ∧
    0 ≤ (atan2sqrt y x).r1.toInt ∧
    |((atan2sqrt y x).r1.toInt : ℝ) - Real.sqrt ((x.toInt : ℝ) ^ 2 + (y.toInt : ℝ) ^ 2)| ≤ 64

/-- R71: ATAN2SQRT presented in phase IDLE is accepted, and 15 edges later, if rst = 0 at them and whatever else is on
the ports, its whole effect is there: r0 = zN, r1 = the low 16 bits of floor(xN * 19898 / 32768), rsp_valid = 1, the
working registers hold the final triple and the block is ready again. -/
def Obligations.Atan2sqrtCompletes : Prop :=
  ∀ (y x : Word16) (s : State), s.phase = .idle → s.noResetFor 15 →
    ∃ t u, exec (.atan2sqrt y x) s = .next t ∧
      t.mode = .vec ∧ t.triple = atan2Init y x ∧ t.i = 0 ∧ t.phase = .iter ∧ t.rspValid = false ∧
      t.response = s.response ∧ t.inputs = s.inputs ∧
      t.afterEdges 15 = .next u ∧
      u.r0 = (cordicRun .vec (atan2Init y x)).z ∧
      u.r1 = BitVec.ofInt 16 ((cordicRun .vec (atan2Init y x)).x * 19898 / 32768) ∧
      u.rspValid = true ∧ u.phase = .idle ∧ u.mode = .vec ∧ u.i = 13 ∧
      u.triple = cordicRun .vec (atan2Init y x) ∧ u.inputs = s.inputs.drop 15

/-- R66 and R71, corner cases and worked examples: exact results of single commands. -/
def Obligations.CornerCasesOfTheCommands : Prop :=
  sincos 0#16 = ⟨4#16, 30000#16⟩ ∧
  sincos 1#16 = ⟨4#16, 30000#16⟩ ∧
  sincos 0xFFFF#16 = ⟨BitVec.ofInt 16 (-4), 30002#16⟩ ∧
  (sincos 8192#16).word = 0x52DD52DE#32 ∧
  atan2sqrt 0#16 0#16 = ⟨18181#16, 0#16⟩ ∧
  atan2sqrt 1#16 0#16 = ⟨18181#16, 0#16⟩ ∧
  atan2sqrt 3#16 4#16 = ⟨5907#16, 10#16⟩ ∧
  atan2sqrt 21000#16 28000#16 = ⟨6711#16, BitVec.ofInt 16 (-30537)⟩ ∧
  atan2sqrt 0#16 32767#16 = ⟨BitVec.ofInt 16 (-1), BitVec.ofInt 16 (-32767)⟩ ∧
  atan2sqrt 0#16 0x8000#16 = ⟨BitVec.ofInt 16 (-32767), BitVec.ofInt 16 (-32768)⟩ ∧
  atan2sqrt 0#16 (BitVec.ofInt 16 (-30000)) = ⟨BitVec.ofInt 16 (-32767), 30000#16⟩ ∧
  atan2sqrt 30000#16 0#16 = ⟨16383#16, 30000#16⟩ ∧
  atan2sqrt (BitVec.ofInt 16 (-30000)) 0#16 = ⟨BitVec.ofInt 16 (-16383), 30000#16⟩ ∧
  (atan2sqrt 3000#16 (BitVec.ofInt 16 (-4000))).word = 0x138A65C9#32

/-! ### The sequencer, edge by edge (43_pipeline_sequencer.md) -/

/-- R72: exactly one of RESET, LOAD, HOLD, ITER and FINISH is performed at an edge, by rst, phase and cmd_valid; the
LOAD step takes its mode and triple from the three command ports. The inputs of the edge are `s.sampled`; that they are
idle where none is listed is the model's choice (log 1) and no part of R72. -/
def Obligations.StepFollowsTheFiveCases : Prop :=
  ∀ s : State,
    (s.sampled.rst = true → step s = .next (resetStep s.advanceInputs)) ∧
    (s.sampled.rst = false → s.phase = .idle → s.sampled.cmdValid = true →
      (s.sampled.cmdOp = 0#1 →
        step s = .next (loadStep .rot (sincosInit s.sampled.cmdA) s.advanceInputs)) ∧
      (s.sampled.cmdOp = 1#1 →
        step s = .next (loadStep .vec (atan2Init s.sampled.cmdA s.sampled.cmdB) s.advanceInputs))) ∧
    (s.sampled.rst = false → s.phase = .idle → s.sampled.cmdValid = false →
      step s = .next (holdStep s.advanceInputs)) ∧
    (s.sampled.rst = false → s.phase = .iter → step s = .next (iterStep s.advanceInputs)) ∧
    (s.sampled.rst = false → s.phase = .finish → step s = .next (finishStep s.advanceInputs))

/-- R83 and 93_implementation_defined.md section 1 ("total and always enabled"): from every state, reachable or not, a
step answers a next state. -/
def Obligations.StepAlwaysAnswersANextState : Prop :=
  ∀ s : State, ∃ t, step s = .next t

/-- A step runs the decoded command: at an edge with rst = 0 and cmd_valid = 1, the step is exec of the command that the
word on the ports decodes to, with this edge's inputs used up. -/
def Obligations.StepRunsTheDecodedCommand : Prop :=
  ∀ (s : State) (i : Instr), s.sampled.rst = false → s.sampled.cmdValid = true →
    decode s.sampled.cmdWord = i → i.wellFormed = true ∧ step s = exec i s.advanceInputs

/-- The model's own choice (log 1, DESIGN CHOICE): where no input is listed the ports are idle, so the step is the block's
own. -/
def Obligations.PortsAreIdleWhenNothingIsListed : Prop :=
  ∀ s : State, s.inputs = [] →
    (s.phase = .idle → step s = .next s) ∧ (s.phase = .iter → step s = .next (iterStep s)) ∧
    (s.phase = .finish → step s = .next (finishStep s))

/-- The model's own statement about withFetchWord (log 2): the very next step runs the command that the table word
decodes to, in phase IDLE, with the inputs of later edges unchanged. -/
def Obligations.FetchWordIsRunByTheNextStep : Prop :=
  ∀ (s : State) (nbits w : ℕ) (i : Instr), decodeTableWord nbits w = some i →
    step (s.withFetchWord nbits w) = exec i { s with phase := .idle, inputs := s.inputs.tail }

/-- R73: the LOAD step. A command on the ports at an edge with rst = 0 and cmd_valid = 1 in phase IDLE: mode is the op
bit, the working registers hold exactly the initial triple, i = 0, phase = ITER, rsp_valid = 0, and r0 and r1 are
unchanged. -/
def Obligations.LoadStepWritesTheInitialTriple : Prop :=
  ∀ s : State, s.sampled.rst = false → s.phase = .idle → s.sampled.cmdValid = true →
    ∃ t, step s = .next t ∧
      t.mode.toBit = s.sampled.cmdOp ∧
      (s.sampled.cmdOp = 0#1 → t.triple = sincosInit s.sampled.cmdA) ∧
      (s.sampled.cmdOp = 1#1 → t.triple = atan2Init s.sampled.cmdA s.sampled.cmdB) ∧
      t.i = 0 ∧ t.phase = .iter ∧ t.rspValid = false ∧
      t.r0 = s.r0 ∧ t.r1 = s.r1 ∧ t.inputs = s.inputs.tail

/-- R74: the HOLD step changes no register, and a response stays readable for as long as the host issues no command. -/
def Obligations.HoldKeepsEveryRegister : Prop :=
  ∀ (s : State) (n : ℕ), s.phase = .idle → s.quietFor n →
    s.afterEdges n = .next { s with inputs := s.inputs.drop n }

/-- R75, R58 and R55 to R57: the ITER step writes x, y and z from the old x, y and z, moves i on or, after the last
iteration, phase to FINISH, and leaves mode, r0, r1 and rsp_valid unchanged, whatever is on the command ports. -/
def Obligations.IterStepPerformsOneIteration : Prop :=
  ∀ s : State, s.sampled.rst = false → s.phase = .iter →
    let d : ℤ := if s.mode = .rot then (if 0 ≤ s.z.toInt then 1 else -1) else (if 0 ≤ s.y.toInt then -1 else 1)
    let table : List ℤ := [8192, 4836, 2555, 1297, 651, 326, 163, 81, 41, 20, 10, 5, 3, 1]
    ∃ t, step s = .next t ∧
      t.x = BitVec.ofInt 32 (s.x.toInt - d * (s.y.toInt / 2 ^ (s.i : ℕ))) ∧
      t.y = BitVec.ofInt 32 (s.y.toInt + d * (s.x.toInt / 2 ^ (s.i : ℕ))) ∧
      t.z = BitVec.ofInt 16 (s.z.toInt - d * table.getD s.i 0) ∧
      (s.i = 13 → t.i = 13 ∧ t.phase = .finish) ∧
      (s.i ≠ 13 → (t.i : ℕ) = s.i + 1 ∧ t.phase = .iter) ∧
      t.mode = s.mode ∧ t.r0 = s.r0 ∧ t.r1 = s.r1 ∧ t.rspValid = s.rspValid ∧
      t.inputs = s.inputs.tail

/-- R76: the FINISH step writes r0, r1, rsp_valid and phase at one edge and leaves x, y, z, i and mode unchanged. -/
def Obligations.FinishStepWritesTheResponse : Prop :=
  ∀ s : State, s.sampled.rst = false → s.phase = .finish →
    ∃ t, step s = .next t ∧
      (s.mode = .rot → t.r0 = BitVec.ofInt 16 s.y.toInt ∧ t.r1 = BitVec.ofInt 16 s.x.toInt) ∧
      (s.mode = .vec → t.r0 = s.z ∧ t.r1 = BitVec.ofInt 16 (s.x.toInt * 19898 / 32768)) ∧
      t.rspValid = true ∧ t.phase = .idle ∧
      t.x = s.x ∧ t.y = s.y ∧ t.z = s.z ∧ t.i = s.i ∧ t.mode = s.mode ∧ t.inputs = s.inputs.tail

/-- The frame of both commands in every phase (R73, R75, R76 "Left unchanged"): an edge at which a command is presented
leaves r0 and r1 unchanged in phase IDLE; mode, r0, r1 and rsp_valid in phase ITER; x, y, z, i and mode in phase
FINISH; and the inputs of later edges in every phase. -/
def Obligations.PresentedCommandFrame : Prop :=
  ∀ (c : Instr) (s t : State), exec c s = .next t →
    t.inputs = s.inputs ∧
    (s.phase = .idle → t.r0 = s.r0 ∧ t.r1 = s.r1) ∧
    (s.phase = .iter → t.mode = s.mode ∧ t.r0 = s.r0 ∧ t.r1 = s.r1 ∧ t.rspValid = s.rspValid) ∧
    (s.phase = .finish → t.x = s.x ∧ t.y = s.y ∧ t.z = s.z ∧ t.i = s.i ∧ t.mode = s.mode)

/-- R49: a command is accepted exactly at an edge with rst = 0, cmd_valid = 1 and phase IDLE, where the step is LOAD; at
any other edge the values on the command ports have no effect on any register; cmd_ready does not depend on the
inputs. -/
def Obligations.PortsMatterOnlyWhenACommandIsAccepted : Prop :=
  (∀ (s : State) (c : Instr), s.accepts c →
    step s = .next (loadStep (commandMode c) (commandInit c) s.advanceInputs)) ∧
  (∀ (s : State) (p q : Inputs) (rest : List Inputs), p.rst = q.rst →
    (p.rst = true ∨ s.phase ≠ .idle ∨ (p.cmdValid = false ∧ q.cmdValid = false)) →
    step { s with inputs := p :: rest } = step { s with inputs := q :: rest }) ∧
  (∀ (s : State) (l : List Inputs), ({ s with inputs := l } : State).cmdReady = s.cmdReady)

/-- R77: number the edges so that LOAD is edge 0. After edge k for k = 0..13, phase is ITER with i = k; after edge 14 it
is FINISH; through all of these busy = 1, cmd_ready = 0, rsp_valid = 0 and the previous response still shows (R98);
after edge 15, rsp_valid = 1 and cmd_ready = 1. So no other command is accepted before edge 16. -/
def Obligations.BlockIsBusyForFifteenEdges : Prop :=
  ∀ (s : State) (c : Instr), s.accepts c → s.advanceInputs.noResetFor 15 →
    (∀ k : ℕ, k < 15 → ∃ t, s.afterEdges (k + 1) = .next t ∧
      (k < 14 → t.phase = .iter ∧ (t.i : ℕ) = k) ∧ (k = 14 → t.phase = .finish) ∧
      t.busy = true ∧ t.cmdReady = false ∧ t.rspValid = false ∧ t.response = s.response) ∧
    ∃ u, s.afterEdges 16 = .next u ∧ u.rspValid = true ∧ u.cmdReady = true ∧ u.busy = false

/-- R78: the edge-by-edge machine computes the pure functions. A command accepted at edge 0, with rst = 0 at edges
1..15, has after edge 15 the response of its pure function, which mentions the command alone. -/
def Obligations.MachineComputesThePureFunctions : Prop :=
  ∀ (s : State) (c : Instr), s.accepts c → s.advanceInputs.noResetFor 15 →
    ∃ u, s.afterEdges 16 = .next u ∧ u.rspValid = true ∧
      u.response = commandResponse c ∧
      (s.sampled.cmdOp = 0#1 → u.response = sincos s.sampled.cmdA) ∧
      (s.sampled.cmdOp = 1#1 → u.response = atan2sqrt s.sampled.cmdA s.sampled.cmdB)

/-- R97: a command held on the ports from the edge after an acceptance on is accepted at the first edge with cmd_ready = 1,
which is edge 16, and not before: after each of the edges 0..14 cmd_ready = 0 and the held command is not accepted at the
edge that follows; and commands offered while the block is busy and then withdrawn are lost without any
trace: the state after edge 15 is the same whatever was offered. -/
def Obligations.HeldCommandIsAcceptedWhenReady : Prop :=
  (∀ (s : State) (c c' : Instr) (rest : List Inputs), s.accepts c →
    s.inputs.tail = List.replicate 16 (Inputs.offerWord (encode c')) ++ rest →
    (∀ k : ℕ, k < 15 → ∃ v, s.afterEdges (k + 1) = .next v ∧ v.cmdReady = false ∧ ¬ v.accepts c') ∧
    ∃ t u, s.afterEdges 16 = .next t ∧ t.response = commandResponse c ∧ t.cmdReady = true ∧ t.accepts c' ∧
      step t = .next u ∧ u.mode = commandMode c' ∧ u.triple = commandInit c' ∧ u.i = 0 ∧ u.phase = .iter) ∧
  (∀ (s : State) (c : Instr) (p : Inputs) (l l' rest : List Inputs), l.length = 15 → l'.length = 15 →
    (∀ q ∈ l ++ l', q.rst = false) → ({ s with inputs := p :: l } : State).accepts c →
    ({ s with inputs := p :: l ++ rest } : State).afterEdges 16 =
      ({ s with inputs := p :: l' ++ rest } : State).afterEdges 16)

/-- R26: no state survives from one command to the next. Two blocks in any two register states that accept the same
command under the same inputs are in the same state 16 edges later, also where a reset comes in between. -/
def Obligations.NothingSurvivesFromOneCommandToTheNext : Prop :=
  ∀ (s s' : State) (c : Instr), s.accepts c → s'.accepts c → s.inputs = s'.inputs →
    s.afterEdges 16 = s'.afterEdges 16

/-! ### Flags, reset, invariants (10_state.md, 60_exceptions.md, 70_reset_and_hazards.md) -/

/-- R19: rsp_valid is cleared by LOAD and by reset, set by FINISH and by nothing else changed, and no step of the block
reads it. -/
def Obligations.RspValidIsSetByFinishAlone : Prop :=
  (∀ s t : State, step s = .next t →
    (s.sampled.rst = true → t.rspValid = false) ∧
    (s.sampled.rst = false → s.phase = .idle → s.sampled.cmdValid = true → t.rspValid = false) ∧
    (s.sampled.rst = false → s.phase = .idle → s.sampled.cmdValid = false → t.rspValid = s.rspValid) ∧
    (s.sampled.rst = false → s.phase = .iter → t.rspValid = s.rspValid) ∧
    (s.sampled.rst = false → s.phase = .finish → t.rspValid = true)) ∧
  (∀ (s t : State) (b : Bool), step s = .next t →
    ∃ b', step { s with rspValid := b } = .next { t with rspValid := b' })

/-- R20: cmd_ready = 1 when phase = IDLE, else 0, and busy = not cmd_ready at all times. -/
def Obligations.ReadyAndBusyFollowPhase : Prop :=
  ∀ s : State, (s.cmdReady = true ↔ s.phase = .idle) ∧ s.busy = !s.cmdReady

/-- R94: an edge with rst = 1 gives every register its reset value in every state; after it cmd_ready = 1 and a command
can be accepted at the very next edge. -/
def Obligations.ResetStepClearsEveryRegister : Prop :=
  ∀ s : State, s.sampled.rst = true →
    ∃ t, step s = .next t ∧
      t.phase = .idle ∧ t.rspValid = false ∧ t.i = 0 ∧ t.mode = .rot ∧
      t.x = 0#32 ∧ t.y = 0#32 ∧ t.z = 0#16 ∧ t.r0 = 0#16 ∧ t.r1 = 0#16 ∧
      t.inputs = s.inputs.tail ∧ t.cmdReady = true ∧
      (t.sampled.rst = false → t.sampled.cmdValid = true →
        ∃ u, step t = .next u ∧ u.phase = .iter ∧ u.mode.toBit = t.sampled.cmdOp)

/-- R27: the register values of the state after reset, and the two-bit, one-bit and four-bit forms of phase, mode and i
(R13). -/
def Obligations.ResetStateHoldsTheResetValues : Prop :=
  State.reset.phase.toBits = 0#2 ∧ State.reset.rspValid = false ∧ iterBits State.reset.i = 0#4 ∧
  State.reset.mode.toBit = 0#1 ∧ State.reset.x = 0#32 ∧ State.reset.y = 0#32 ∧ State.reset.z = 0#16 ∧
  State.reset.r0 = 0#16 ∧ State.reset.r1 = 0#16

/-- R95: reset has priority in every phase and discards the command in flight, the response and a command offered at that
edge. After it rsp_valid stays 0 until some command finishes, whatever the inputs, and as long as the host presents
nothing every register stays at its reset value, so the discarded response never appears. -/
def Obligations.ResetDiscardsTheCommandInFlight : Prop :=
  ∀ (s : State) (n : ℕ), s.sampled.rst = true →
    ((∀ k : ℕ, 1 ≤ k → k ≤ n → ∀ t, s.afterEdges k = .next t → t.phase ≠ .finish) →
      ∃ t, s.afterEdges (n + 1) = .next t ∧ t.rspValid = false) ∧
    (s.advanceInputs.quietFor n →
      ∃ t, s.afterEdges (n + 1) = .next t ∧ t.registersAtReset)

/-- The invariant of Safety.lean holds right after reset (R27). -/
def Obligations.ResetStateIsTraceable : Prop := State.reset.Traceable

/-- Every step keeps the invariant, from every state that meets it and whatever the inputs (R17, R19, R25, R26, R60, R73
to R76, R94): in phase IDLE without a valid response every register is at its reset value; with one, the registers are
those of one finished command; in flight, the 32-bit registers hold exactly the unbounded integers of one command's
run and rsp_valid is 0. -/
def Obligations.StepKeepsTraceable : Prop :=
  ∀ s t : State, s.Traceable → step s = .next t → t.Traceable
end

