-- ==== Sys2Proof/Laws/Decode.lean ====
section
/-! SUPPORT. The fields of a packed command word (30_encoding.md R45), the facts decoding and encoding rest on. -/

namespace Sys2Proof

/-- Bit k of a packed word: A in bits 15..0, B in bits 31..16, op in bit 32. -/
theorem getLsbD_packCmd (op : BitVec 1) (b a : Word16) (k : Nat) :
    (packCmd op b a).getLsbD k =
      if k < 16 then a.getLsbD k else if k < 32 then b.getLsbD (k - 16) else op.getLsbD (k - 32) := by
  have h : (packCmd op b a).getLsbD k = ((op ++ b) ++ a).getLsbD k := rfl
  rw [h, BitVec.getLsbD_append, BitVec.getLsbD_append]
  by_cases h1 : k < 16
  · simp [h1]
  · by_cases h2 : k < 32
    · have h3 : k - 16 < 16 := by omega
      simp [h1, h2, h3]
    · have h3 : ¬ k - 16 < 16 := by omega
      simp [h1, h2, h3, Nat.sub_sub]

/-- Field op of a packed word. -/
@[simp] theorem opField_packCmd (op : BitVec 1) (b a : Word16) : opField (packCmd op b a) = op := by
  apply BitVec.eq_of_getLsbD_eq
  intro k hk
  obtain rfl : k = 0 := by omega
  simp [opField, getLsbD_packCmd, -BitVec.getLsbD_eq_getElem]

/-- Field B of a packed word. -/
@[simp] theorem bField_packCmd (op : BitVec 1) (b a : Word16) : bField (packCmd op b a) = b := by
  apply BitVec.eq_of_getLsbD_eq
  intro k hk
  have h : 16 + k < 32 := by omega
  simp [bField, BitVec.getLsbD_extractLsb', getLsbD_packCmd, hk, h, -BitVec.getLsbD_eq_getElem]

/-- Field A of a packed word. -/
@[simp] theorem aField_packCmd (op : BitVec 1) (b a : Word16) : aField (packCmd op b a) = a := by
  apply BitVec.eq_of_getLsbD_eq
  intro k hk
  simp [aField, BitVec.getLsbD_extractLsb', getLsbD_packCmd, hk, -BitVec.getLsbD_eq_getElem]

/-- The op bit alone decides the command (R48). -/
theorem decode_packCmd (op : BitVec 1) (b a : Word16) :
    decode (packCmd op b a) = if op = 0#1 then .sincos a b else .atan2sqrt a b := by
  simp [decode]

end Sys2Proof
end

