-- ==== Sys2Proof/Laws/Ops.lean ====
section
/-! SUPPORT. What the primitives of R10 do, once: the provers cite these and do not unfold the primitives. -/

namespace Sys2Proof.Machine

/-- asr is the floor division by a power of two (R10). -/
theorem asr_eq_div (v : Int) (k : Nat) : asr v k = v / 2 ^ k := by
  simp [asr, Int.shiftRight_eq_div_pow]

/-- asr(v, 0) = v (R10). -/
theorem asr_zero (v : Int) : asr v 0 = v := by simp [asr]

/-- asr(-1, k) = -1 for every k (R10). -/
theorem asr_neg_one (k : Nat) : asr (-1) k = -1 := by
  have h : (0 : Int) < 2 ^ k := by positivity
  rw [asr_eq_div, Int.ediv_eq_iff_of_pos h]
  constructor <;> linarith

/-- sgn is +1 exactly when its argument is not negative (R10). -/
theorem sgn_of_nonneg {v : Int} (h : 0 ≤ v) : sgn v = 1 := by simp [sgn, h]

/-- sgn is -1 exactly when its argument is negative (R10). -/
theorem sgn_of_neg {v : Int} (h : v < 0) : sgn v = -1 := by simp [sgn, not_le.mpr h]

/-- sgn is never 0 (R10). -/
theorem sgn_cases (v : Int) : sgn v = 1 ∨ sgn v = -1 := by
  unfold sgn; split <;> simp

/-- sext_32 of a 16-bit vector is its signed value (R10). -/
theorem sext32_eq_toInt (v : Word16) : sext32 v = v.toInt :=
  BitVec.toInt_signExtend_of_le (by decide)

/-- wrap16(n) is congruent to n modulo 65536 and lies in -32768..32767 (R10). -/
theorem wrap16_toInt (n : Int) : (wrap16 n).toInt = Int.bmod n 65536 := by
  simp [wrap16, BitVec.toInt_ofInt]

/-- A number in -32768..32767 is its own wrap (R10). -/
theorem wrap16_toInt_of_mem {n : Int} (h₁ : -32768 ≤ n) (h₂ : n ≤ 32767) : (wrap16 n).toInt = n := by
  rw [wrap16_toInt, Int.bmod_def]; omega

/-- wrap16 undoes reading a 16-bit word as a signed number. -/
theorem wrap16_of_toInt (v : Word16) : wrap16 v.toInt = v := by simp [wrap16]

/-- The signed value of a 16-bit word lies in -32768..32767 (R9). -/
theorem toInt16_bounds (v : Word16) : -32768 ≤ v.toInt ∧ v.toInt ≤ 32767 := by
  have h₁ := BitVec.le_toInt v
  have h₂ := BitVec.toInt_lt (x := v)
  constructor <;> omega

/-- A number in the signed 32-bit range is what a 32-bit register holds after it is written (R14). -/
theorem toInt_ofInt32_of_mem {n : Int} (h₁ : -2147483648 ≤ n) (h₂ : n ≤ 2147483647) :
    (BitVec.ofInt 32 n).toInt = n := by
  rw [BitVec.toInt_ofInt, Int.bmod_def]; omega

/-- Writing a triple whose coordinates fit 32 bits and reading it back gives that triple. -/
theorem writeTriple_triple_of_mem (s : State) {t : Triple} (hx : |t.x| ≤ 2147483647) (hy : |t.y| ≤ 2147483647) :
    (s.writeTriple t).triple = t := by
  rw [abs_le] at hx hy
  have h₁ := toInt_ofInt32_of_mem (n := t.x) (by omega) hx.2
  have h₂ := toInt_ofInt32_of_mem (n := t.y) (by omega) hy.2
  simp only [State.triple, State.writeTriple, h₁, h₂]

/-- With no input listed the ports are idle (log 1). -/
theorem sampled_of_nil {s : State} (h : s.inputs = []) : s.sampled = Inputs.idle := by
  simp [State.sampled, h]

/-- The inputs sampled at an edge are the first of the list. -/
theorem sampled_of_cons {s : State} {p : Inputs} {rest : List Inputs} (h : s.inputs = p :: rest) : s.sampled = p := by
  simp [State.sampled, h]

/-- Every op bit is 0 or 1, and the mode it selects has it as its bit (R18). -/
theorem ofOp_toBit (op : BitVec 1) : (Mode.ofOp op).toBit = op := by
  rcases BitVec.eq_zero_or_eq_one op with h | h <;> subst h <;> rfl

end Sys2Proof.Machine
end

