-- ==== Sys2Proof/Laws/Engine.lean ====
section
/-! SUPPORT. What one iteration and one run do (40_cordic_engine.md R55 to R59). -/

namespace Sys2Proof.Machine

/-- N is the table length (R8, R28). -/
theorem atanTable_length : atanTable.length = Config.iterations := rfl

/-- The direction is +1 or -1, never 0 (R21). -/
theorem direction_cases (m : Mode) (y : Int) (z : Word16) : direction m y z = 1 ∨ direction m y z = -1 := by
  cases m
  · exact sgn_cases _
  · rcases sgn_cases y with h | h <;> simp [direction, h]

/-- A step in ROT mode with z not negative: counter-clockwise (R56). -/
theorem cordicStep_rot_of_nonneg (i : IterIndex) (t : Triple) (h : 0 ≤ t.z.toInt) :
    cordicStep .rot i t = ⟨t.x - asr t.y i, t.y + asr t.x i, wrap16 (t.z.toInt - (atan i).toNat)⟩ := by
  simp [cordicStep, direction, sgn_of_nonneg h]

/-- A step in ROT mode with z negative: clockwise (R56). -/
theorem cordicStep_rot_of_neg (i : IterIndex) (t : Triple) (h : t.z.toInt < 0) :
    cordicStep .rot i t = ⟨t.x + asr t.y i, t.y - asr t.x i, wrap16 (t.z.toInt + (atan i).toNat)⟩ := by
  simp [cordicStep, direction, sgn_of_neg h, sub_eq_add_neg]

/-- A step in VEC mode with y not negative: clockwise, the angle added to z (R57). -/
theorem cordicStep_vec_of_nonneg (i : IterIndex) (t : Triple) (h : 0 ≤ t.y) :
    cordicStep .vec i t = ⟨t.x + asr t.y i, t.y - asr t.x i, wrap16 (t.z.toInt + (atan i).toNat)⟩ := by
  simp [cordicStep, direction, sgn_of_nonneg h, sub_eq_add_neg]

/-- A step in VEC mode with y negative: counter-clockwise, the angle taken from z (R57). -/
theorem cordicStep_vec_of_neg (i : IterIndex) (t : Triple) (h : t.y < 0) :
    cordicStep .vec i t = ⟨t.x - asr t.y i, t.y + asr t.x i, wrap16 (t.z.toInt - (atan i).toNat)⟩ := by
  simp [cordicStep, direction, sgn_of_neg h]

/-- Before iteration 0 the triple is the initial one (R11). -/
@[simp] theorem cordicUpTo_zero (m : Mode) (t : Triple) : cordicUpTo m t 0 = t := rfl

/-- Iteration number i takes the triple before it to the triple after it (R11, R59). -/
theorem cordicUpTo_succ (m : Mode) (t : Triple) (i : IterIndex) :
    cordicUpTo m t (i + 1) = cordicStep m i (cordicUpTo m t i) := by
  fin_cases i <;> rfl

/-- The whole run is the first 14 iterations (R59). -/
theorem cordicRun_eq_upTo (m : Mode) (t : Triple) : cordicRun m t = cordicUpTo m t 14 := rfl

end Sys2Proof.Machine
end

