-- ==== Sys2Proof/Laws/PerInstr.lean ====
section
/-! SUPPORT. Facts about each instruction as an instruction: the family OpcodeRow says that its command word carries
the match bits of its row of the opcode map under the row's mask (30_encoding.md R48). -/

namespace Sys2Proof.Laws.OpcodeRow

/-- The command word of an instruction is covered by the instruction's row of the opcode map. -/
def Statement (i : Instr) : Prop := i.row ∈ opcodeMap ∧ i.row.covers (encode i) = true

/-- Under the opcode map's mask a packed word keeps its op bit and nothing else. -/
theorem packCmd_and_mask (op : BitVec 1) (b a : Word16) :
    packCmd op b a &&& 0x100000000#33 = packCmd op 0#16 0#16 := by
  have hm : ∀ k : Nat, k < 33 → (0x100000000#33).getLsbD k = decide (k = 32) := by decide
  apply BitVec.eq_of_getLsbD_eq
  intro k hk
  rw [BitVec.getLsbD_and, hm k hk, getLsbD_packCmd, getLsbD_packCmd]
  rcases Nat.lt_or_ge k 32 with h | h
  · have h' : k ≠ 32 := by omega
    simp [h, h']
  · obtain rfl : k = 32 := by omega
    simp

theorem sincos (angle b : Word16) : Statement (.sincos angle b) := by
  refine ⟨List.mem_cons_self, ?_⟩
  simp only [Instr.row, OpcodeRow.covers, rowSincos, encode, packCmd_and_mask]
  decide

theorem atan2sqrt (y x : Word16) : Statement (.atan2sqrt y x) := by
  refine ⟨List.mem_cons_of_mem _ List.mem_cons_self, ?_⟩
  simp only [Instr.row, OpcodeRow.covers, rowAtan2sqrt, encode, packCmd_and_mask]
  decide

end Sys2Proof.Laws.OpcodeRow
end

