-- ==== Sys2Proof/Laws/State.lean ====
section
/-! SUPPORT. One lemma per field per update of the state, each true by rfl, so that no later proof unfolds a record
update. -/

namespace Sys2Proof.Machine

variable (s : State)

/-! ### State.writeTriple -/

@[simp] theorem writeTriple_x (t : Triple) : (s.writeTriple t).x = BitVec.ofInt 32 t.x := rfl
@[simp] theorem writeTriple_y (t : Triple) : (s.writeTriple t).y = BitVec.ofInt 32 t.y := rfl
@[simp] theorem writeTriple_z (t : Triple) : (s.writeTriple t).z = t.z := rfl
@[simp] theorem writeTriple_i (t : Triple) : (s.writeTriple t).i = s.i := rfl
@[simp] theorem writeTriple_mode (t : Triple) : (s.writeTriple t).mode = s.mode := rfl
@[simp] theorem writeTriple_phase (t : Triple) : (s.writeTriple t).phase = s.phase := rfl
@[simp] theorem writeTriple_r0 (t : Triple) : (s.writeTriple t).r0 = s.r0 := rfl
@[simp] theorem writeTriple_r1 (t : Triple) : (s.writeTriple t).r1 = s.r1 := rfl
@[simp] theorem writeTriple_rspValid (t : Triple) : (s.writeTriple t).rspValid = s.rspValid := rfl
@[simp] theorem writeTriple_inputs (t : Triple) : (s.writeTriple t).inputs = s.inputs := rfl

/-! ### State.writeResponse -/

@[simp] theorem writeResponse_x (r : Response) : (s.writeResponse r).x = s.x := rfl
@[simp] theorem writeResponse_y (r : Response) : (s.writeResponse r).y = s.y := rfl
@[simp] theorem writeResponse_z (r : Response) : (s.writeResponse r).z = s.z := rfl
@[simp] theorem writeResponse_i (r : Response) : (s.writeResponse r).i = s.i := rfl
@[simp] theorem writeResponse_mode (r : Response) : (s.writeResponse r).mode = s.mode := rfl
@[simp] theorem writeResponse_phase (r : Response) : (s.writeResponse r).phase = s.phase := rfl
@[simp] theorem writeResponse_r0 (r : Response) : (s.writeResponse r).r0 = r.r0 := rfl
@[simp] theorem writeResponse_r1 (r : Response) : (s.writeResponse r).r1 = r.r1 := rfl
@[simp] theorem writeResponse_rspValid (r : Response) : (s.writeResponse r).rspValid = s.rspValid := rfl
@[simp] theorem writeResponse_inputs (r : Response) : (s.writeResponse r).inputs = s.inputs := rfl

/-! ### State.clearRspValid -/

@[simp] theorem clearRspValid_x : (s.clearRspValid).x = s.x := rfl
@[simp] theorem clearRspValid_y : (s.clearRspValid).y = s.y := rfl
@[simp] theorem clearRspValid_z : (s.clearRspValid).z = s.z := rfl
@[simp] theorem clearRspValid_i : (s.clearRspValid).i = s.i := rfl
@[simp] theorem clearRspValid_mode : (s.clearRspValid).mode = s.mode := rfl
@[simp] theorem clearRspValid_phase : (s.clearRspValid).phase = s.phase := rfl
@[simp] theorem clearRspValid_r0 : (s.clearRspValid).r0 = s.r0 := rfl
@[simp] theorem clearRspValid_r1 : (s.clearRspValid).r1 = s.r1 := rfl
@[simp] theorem clearRspValid_rspValid : (s.clearRspValid).rspValid = false := rfl
@[simp] theorem clearRspValid_inputs : (s.clearRspValid).inputs = s.inputs := rfl

/-! ### State.setRspValid -/

@[simp] theorem setRspValid_x : (s.setRspValid).x = s.x := rfl
@[simp] theorem setRspValid_y : (s.setRspValid).y = s.y := rfl
@[simp] theorem setRspValid_z : (s.setRspValid).z = s.z := rfl
@[simp] theorem setRspValid_i : (s.setRspValid).i = s.i := rfl
@[simp] theorem setRspValid_mode : (s.setRspValid).mode = s.mode := rfl
@[simp] theorem setRspValid_phase : (s.setRspValid).phase = s.phase := rfl
@[simp] theorem setRspValid_r0 : (s.setRspValid).r0 = s.r0 := rfl
@[simp] theorem setRspValid_r1 : (s.setRspValid).r1 = s.r1 := rfl
@[simp] theorem setRspValid_rspValid : (s.setRspValid).rspValid = true := rfl
@[simp] theorem setRspValid_inputs : (s.setRspValid).inputs = s.inputs := rfl

/-! ### State.advanceInputs -/

@[simp] theorem advanceInputs_x : (s.advanceInputs).x = s.x := rfl
@[simp] theorem advanceInputs_y : (s.advanceInputs).y = s.y := rfl
@[simp] theorem advanceInputs_z : (s.advanceInputs).z = s.z := rfl
@[simp] theorem advanceInputs_i : (s.advanceInputs).i = s.i := rfl
@[simp] theorem advanceInputs_mode : (s.advanceInputs).mode = s.mode := rfl
@[simp] theorem advanceInputs_phase : (s.advanceInputs).phase = s.phase := rfl
@[simp] theorem advanceInputs_r0 : (s.advanceInputs).r0 = s.r0 := rfl
@[simp] theorem advanceInputs_r1 : (s.advanceInputs).r1 = s.r1 := rfl
@[simp] theorem advanceInputs_rspValid : (s.advanceInputs).rspValid = s.rspValid := rfl
@[simp] theorem advanceInputs_inputs : (s.advanceInputs).inputs = s.inputs.tail := rfl

/-! ### RESET -/

@[simp] theorem resetStep_x : (resetStep s).x = 0#32 := rfl
@[simp] theorem resetStep_y : (resetStep s).y = 0#32 := rfl
@[simp] theorem resetStep_z : (resetStep s).z = 0#16 := rfl
@[simp] theorem resetStep_i : (resetStep s).i = 0 := rfl
@[simp] theorem resetStep_mode : (resetStep s).mode = .rot := rfl
@[simp] theorem resetStep_phase : (resetStep s).phase = .idle := rfl
@[simp] theorem resetStep_r0 : (resetStep s).r0 = 0#16 := rfl
@[simp] theorem resetStep_r1 : (resetStep s).r1 = 0#16 := rfl
@[simp] theorem resetStep_rspValid : (resetStep s).rspValid = false := rfl
@[simp] theorem resetStep_inputs : (resetStep s).inputs = s.inputs := rfl

/-! ### LOAD -/

@[simp] theorem loadStep_x (m : Mode) (t : Triple) : (loadStep m t s).x = BitVec.ofInt 32 t.x := rfl
@[simp] theorem loadStep_y (m : Mode) (t : Triple) : (loadStep m t s).y = BitVec.ofInt 32 t.y := rfl
@[simp] theorem loadStep_z (m : Mode) (t : Triple) : (loadStep m t s).z = t.z := rfl
@[simp] theorem loadStep_i (m : Mode) (t : Triple) : (loadStep m t s).i = 0 := rfl
@[simp] theorem loadStep_mode (m : Mode) (t : Triple) : (loadStep m t s).mode = m := rfl
@[simp] theorem loadStep_phase (m : Mode) (t : Triple) : (loadStep m t s).phase = .iter := rfl
@[simp] theorem loadStep_r0 (m : Mode) (t : Triple) : (loadStep m t s).r0 = s.r0 := rfl
@[simp] theorem loadStep_r1 (m : Mode) (t : Triple) : (loadStep m t s).r1 = s.r1 := rfl
@[simp] theorem loadStep_rspValid (m : Mode) (t : Triple) : (loadStep m t s).rspValid = false := rfl
@[simp] theorem loadStep_inputs (m : Mode) (t : Triple) : (loadStep m t s).inputs = s.inputs := rfl

/-! ### HOLD -/

@[simp] theorem holdStep_x : (holdStep s).x = s.x := rfl
@[simp] theorem holdStep_y : (holdStep s).y = s.y := rfl
@[simp] theorem holdStep_z : (holdStep s).z = s.z := rfl
@[simp] theorem holdStep_i : (holdStep s).i = s.i := rfl
@[simp] theorem holdStep_mode : (holdStep s).mode = s.mode := rfl
@[simp] theorem holdStep_phase : (holdStep s).phase = s.phase := rfl
@[simp] theorem holdStep_r0 : (holdStep s).r0 = s.r0 := rfl
@[simp] theorem holdStep_r1 : (holdStep s).r1 = s.r1 := rfl
@[simp] theorem holdStep_rspValid : (holdStep s).rspValid = s.rspValid := rfl
@[simp] theorem holdStep_inputs : (holdStep s).inputs = s.inputs := rfl

/-! ### FINISH -/

@[simp] theorem finishStep_x : (finishStep s).x = s.x := rfl
@[simp] theorem finishStep_y : (finishStep s).y = s.y := rfl
@[simp] theorem finishStep_z : (finishStep s).z = s.z := rfl
@[simp] theorem finishStep_i : (finishStep s).i = s.i := rfl
@[simp] theorem finishStep_mode : (finishStep s).mode = s.mode := rfl
@[simp] theorem finishStep_phase : (finishStep s).phase = .idle := rfl
@[simp] theorem finishStep_r0 : (finishStep s).r0 = (selectResult s.mode s.triple).r0 := rfl
@[simp] theorem finishStep_r1 : (finishStep s).r1 = (selectResult s.mode s.triple).r1 := rfl
@[simp] theorem finishStep_rspValid : (finishStep s).rspValid = true := rfl
@[simp] theorem finishStep_inputs : (finishStep s).inputs = s.inputs := rfl

/-! ### ITER -/

@[simp] theorem iterStep_mode : (iterStep s).mode = s.mode := by
  unfold iterStep; split <;> rfl
@[simp] theorem iterStep_r0 : (iterStep s).r0 = s.r0 := by
  unfold iterStep; split <;> rfl
@[simp] theorem iterStep_r1 : (iterStep s).r1 = s.r1 := by
  unfold iterStep; split <;> rfl
@[simp] theorem iterStep_rspValid : (iterStep s).rspValid = s.rspValid := by
  unfold iterStep; split <;> rfl
@[simp] theorem iterStep_inputs : (iterStep s).inputs = s.inputs := by
  unfold iterStep; split <;> rfl
@[simp] theorem iterStep_x : (iterStep s).x = BitVec.ofInt 32 (cordicStep s.mode s.i s.triple).x := by
  unfold iterStep; split <;> simp_all
@[simp] theorem iterStep_y : (iterStep s).y = BitVec.ofInt 32 (cordicStep s.mode s.i s.triple).y := by
  unfold iterStep; split <;> simp_all
@[simp] theorem iterStep_z : (iterStep s).z = (cordicStep s.mode s.i s.triple).z := by
  unfold iterStep; split <;> simp_all
@[simp] theorem iterStep_i : (iterStep s).i = if s.i = 13 then s.i else s.i + 1 := by
  unfold iterStep; split <;> simp_all
@[simp] theorem iterStep_phase : (iterStep s).phase = if s.i = 13 then .finish else s.phase := by
  unfold iterStep; split <;> simp_all

/-! ### Views of the state that an update of other fields leaves alone -/

@[simp] theorem advanceInputs_triple : s.advanceInputs.triple = s.triple := rfl
@[simp] theorem advanceInputs_response : s.advanceInputs.response = s.response := rfl
@[simp] theorem finishStep_triple : (finishStep s).triple = s.triple := rfl
@[simp] theorem finishStep_response : (finishStep s).response = selectResult s.mode s.triple := rfl
@[simp] theorem loadStep_response (m : Mode) (t : Triple) : (loadStep m t s).response = s.response := rfl

/-- The step functions of the sequencer neither read nor change the inputs of later edges. -/
theorem ownStep_inputs : (ownStep s).inputs = s.inputs := by
  unfold ownStep; split <;> simp

/-- In phase IDLE the block's own step is HOLD. -/
theorem ownStep_idle {s : State} (h : s.phase = .idle) : ownStep s = holdStep s := by simp [ownStep, h]

/-- In phase ITER the block's own step is ITER. -/
theorem ownStep_iter {s : State} (h : s.phase = .iter) : ownStep s = iterStep s := by simp [ownStep, h]

/-- In phase FINISH the block's own step is FINISH. -/
theorem ownStep_finish {s : State} (h : s.phase = .finish) : ownStep s = finishStep s := by simp [ownStep, h]

/-- A command presented in phase IDLE is loaded (R73). -/
theorem offerStep_idle {s : State} (m : Mode) (t : Triple) (h : s.phase = .idle) :
    offerStep m t s = loadStep m t s := by simp [offerStep, h]

/-- A command presented in phase ITER or FINISH leaves the block to its own step (R85, R97). -/
theorem offerStep_busy {s : State} (m : Mode) (t : Triple) (h : s.phase ≠ .idle) : offerStep m t s = ownStep s := by
  unfold offerStep; split <;> simp_all

end Sys2Proof.Machine
end

