-- ==== Sys2Proof/Laws/Step.lean ====
section
/-! SUPPORT. What a presented command and a step can do, once. -/

namespace Sys2Proof.Machine

/-- The mode a decoded command writes is the one its op bit selects (R18). -/
theorem commandMode_decode (w : CmdWord) : commandMode (decode w) = Mode.ofOp (opField w) := by
  unfold decode Mode.ofOp
  split <;> rfl

/-- A presented command is the shared offer of its mode and its initial triple. -/
theorem exec_eq (c : Instr) (s : State) : exec c s = .next (offerStep (commandMode c) (commandInit c) s) := by
  cases c <;> rfl

/-- A command presented in phase IDLE is accepted: LOAD (R49, R73). -/
theorem exec_idle (c : Instr) {s : State} (h : s.phase = .idle) :
    exec c s = .next (loadStep (commandMode c) (commandInit c) s) := by
  rw [exec_eq, offerStep_idle _ _ h]

/-- A command presented while the block is busy has no effect: the block's own step is performed (R85, R97). -/
theorem exec_busy (c : Instr) {s : State} (h : s.phase ≠ .idle) : exec c s = .next (ownStep s) := by
  rw [exec_eq, offerStep_busy _ _ h]

/-- What a step can do: if it answers t, then it is one of the five steps of R72 on the state with this edge's inputs
used up, under the condition of that case. -/
theorem step_cases {s t : State} (h : step s = .next t) :
    (s.sampled.rst = true ∧ t = resetStep s.advanceInputs) ∨
    (s.sampled.rst = false ∧ s.phase = .idle ∧ s.sampled.cmdValid = true ∧
      ∃ c, decode s.sampled.cmdWord = c ∧ t = loadStep (commandMode c) (commandInit c) s.advanceInputs) ∨
    (s.sampled.rst = false ∧ s.phase = .idle ∧ s.sampled.cmdValid = false ∧ t = holdStep s.advanceInputs) ∨
    (s.sampled.rst = false ∧ s.phase = .iter ∧ t = iterStep s.advanceInputs) ∨
    (s.sampled.rst = false ∧ s.phase = .finish ∧ t = finishStep s.advanceInputs) := by
  unfold step at h
  split at h
  · next hr => cases h; exact .inl ⟨hr, rfl⟩
  · next hr =>
    have hr : s.sampled.rst = false := by simpa using hr
    split at h
    · next hv =>
      cases hp : s.phase
      · rw [exec_idle _ (by simpa using hp)] at h
        cases h
        exact .inr (.inl ⟨hr, rfl, hv, _, rfl, rfl⟩)
      · rw [exec_busy _ (by simp [hp]), ownStep_iter (by simpa using hp)] at h
        cases h
        exact .inr (.inr (.inr (.inl ⟨hr, rfl, rfl⟩)))
      · rw [exec_busy _ (by simp [hp]), ownStep_finish (by simpa using hp)] at h
        cases h
        exact .inr (.inr (.inr (.inr ⟨hr, rfl, rfl⟩)))
    · next hv =>
      have hv : s.sampled.cmdValid = false := by simpa using hv
      cases h
      cases hp : s.phase
      · exact .inr (.inr (.inl ⟨hr, rfl, hv, ownStep_idle (by simpa using hp)⟩))
      · exact .inr (.inr (.inr (.inl ⟨hr, rfl, ownStep_iter (by simpa using hp)⟩)))
      · exact .inr (.inr (.inr (.inr ⟨hr, rfl, ownStep_finish (by simpa using hp)⟩)))

/-- No edge adds or keeps an input: a step uses up exactly this edge's inputs. -/
theorem step_inputs {s t : State} (h : step s = .next t) : t.inputs = s.inputs.tail := by
  obtain ⟨-, rfl⟩ | ⟨-, -, -, c, -, rfl⟩ | ⟨-, -, -, rfl⟩ | ⟨-, -, rfl⟩ | ⟨-, -, rfl⟩ := step_cases h <;> simp

end Sys2Proof.Machine
end

