-- ==== Sys2Proof/Laws/Run.lean ====
section
/-! SUPPORT. Runs of several edges, and what an accepted command leaves in the working registers. -/

namespace Sys2Proof.Machine

/-- No edge, no change. -/
@[simp] theorem afterEdges_zero (s : State) : s.afterEdges 0 = .next s := rfl

/-- The first of n + 1 edges is one step. -/
theorem afterEdges_succ {s t : State} (n : Nat) (h : step s = .next t) : s.afterEdges (n + 1) = t.afterEdges n := by
  have h' : Host.Core.step core s = .next t := h
  simp only [State.afterEdges, Host.Core.run]
  rw [h']

/-- Fewer edges of a stretch without reset are one too. -/
theorem noResetFor_mono {s : State} {m n : Nat} (h : s.noResetFor n) (hm : m ≤ n) : s.noResetFor m :=
  ⟨hm.trans h.1, fun p hp => h.2 p (List.take_subset_take_left s.inputs hm hp)⟩

/-- The first edge of a stretch without reset has rst = 0. -/
theorem noResetFor_sampled {s : State} {n : Nat} (h : s.noResetFor (n + 1)) : s.sampled.rst = false := by
  obtain ⟨hl, hr⟩ := h
  cases hs : s.inputs with
  | nil => simp [hs] at hl
  | cons p rest => rw [sampled_of_cons hs]; exact hr p (by simp [hs])

/-- What is left of a stretch without reset after its first edge. -/
theorem noResetFor_advance {s : State} {n : Nat} (h : s.noResetFor (n + 1)) : s.advanceInputs.noResetFor n := by
  obtain ⟨hl, hr⟩ := h
  cases hs : s.inputs with
  | nil => simp [hs] at hl
  | cons p rest =>
    constructor
    · simp only [hs, List.length_cons] at hl
      simp only [advanceInputs_inputs, hs, List.tail_cons]
      omega
    · intro q hq
      apply hr
      simp only [hs, advanceInputs_inputs, List.tail_cons, List.take_succ_cons, List.mem_cons] at hq ⊢
      exact .inr hq

/-- The first edge of a quiet stretch has rst = 0 and cmd_valid = 0. -/
theorem quietFor_sampled {s : State} {n : Nat} (h : s.quietFor (n + 1)) :
    s.sampled.rst = false ∧ s.sampled.cmdValid = false := by
  obtain ⟨hl, hr⟩ := h
  cases hs : s.inputs with
  | nil => simp [hs] at hl
  | cons p rest => rw [sampled_of_cons hs]; exact hr p (by simp [hs])

/-- What is left of a quiet stretch after its first edge. -/
theorem quietFor_advance {s : State} {n : Nat} (h : s.quietFor (n + 1)) : s.advanceInputs.quietFor n := by
  obtain ⟨hl, hr⟩ := h
  cases hs : s.inputs with
  | nil => simp [hs] at hl
  | cons p rest =>
    constructor
    · simp only [hs, List.length_cons] at hl
      simp only [advanceInputs_inputs, hs, List.tail_cons]
      omega
    · intro q hq
      apply hr
      simp only [hs, advanceInputs_inputs, List.tail_cons, List.take_succ_cons, List.mem_cons] at hq ⊢
      exact .inr hq

/-- The word of a command decodes to it, so an accepted word is the accepted command. -/
theorem decode_of_eq_encode {w : CmdWord} {c : Instr} (h : w = encode c) : decode w = c := by
  subst h
  cases c <;> simp [encode, decode_packCmd]

/-- Before the last iteration the index moves on by one without wrapping (R17). -/
theorem iterIndex_succ_val {i : IterIndex} (h : i ≠ 13) : ((i + 1 : IterIndex) : Nat) = i + 1 := by
  revert i; decide

/-- The initial triple of any command has coordinates of at most 32768 in magnitude (R64, R68). -/
theorem commandInit_bounds (c : Instr) : |(commandInit c).x| ≤ 32768 ∧ |(commandInit c).y| ≤ 32768 := by
  cases c with
  | sincos a b =>
    simp only [commandInit, sincosInit, kRot]
    split <;> simp
  | atan2sqrt y x =>
    have hx := toInt16_bounds x
    have hy := toInt16_bounds y
    simp only [commandInit, atan2Init, coordinateOperand, sext32_eq_toInt, abs_le]
    split <;> refine ⟨⟨?_, ?_⟩, ?_, ?_⟩ <;> dsimp only <;> omega

/-- The LOAD step of a command puts exactly its initial triple into the 32-bit registers (R73). -/
theorem loadStep_triple (c : Instr) (s : State) :
    (loadStep (commandMode c) (commandInit c) s).triple = commandInit c := by
  have h := commandInit_bounds c
  exact writeTriple_triple_of_mem s (h.1.trans (by norm_num)) (h.2.trans (by norm_num))

/-- The ITER step puts exactly the next triple into the registers, where that triple fits 32 bits (R75). -/
theorem iterStep_triple (s : State) (hx : |(cordicStep s.mode s.i s.triple).x| ≤ 2147483647)
    (hy : |(cordicStep s.mode s.i s.triple).y| ≤ 2147483647) :
    (iterStep s).triple = cordicStep s.mode s.i s.triple := by
  have h := writeTriple_triple_of_mem s hx hy
  unfold iterStep
  split <;> exact h

end Sys2Proof.Machine
end

