-- ==== Sys2Proof/Tests/Slice0.lean ====
section
/-! SUPPORT. Tests: the well-formedness checks, words written out from the encoding, one step at a time, and for each
statement with hypotheses a concrete state and operands that meet them. Expected values are those of spec/, named at
each test. -/

namespace Sys2Proof.Tests

open Sys2Proof Sys2Proof.Machine

/-! ### Well-formedness (30_encoding.md R50, R52): each check refuses an ill-formed term -/

theorem test_wf_decimal_too_large : (Line.sincos (.dec 32768)).wellFormed = false := by decide
theorem test_wf_decimal_too_small : (Line.atan2sqrt (.dec (-32769)) (.dec 0)).wellFormed = false := by decide
theorem test_wf_pattern_too_long : (Line.atan2sqrt .r0 (.hex 0x10000)).wellFormed = false := by decide
theorem test_wf_accepts : (Line.atan2sqrt (.dec (-32768)) (.hex 0xFFFF)).wellFormed = true := by decide

/-! ### Decoding (30_encoding.md R45, R48; words of 95_test_vectors.md sections 3, 4 and 6) -/

/-- 0, B = 0x0000, A = 0x2000, written out bit by bit. -/
theorem test_decode_sincos :
    decode 0b000000000000000000010000000000000#33 = .sincos 8192#16 0#16 := by decide
/-- 1, B = 0x52DD, A = 0x52DE, written out bit by bit: x = 21213 in B, y = 21214 in A. -/
theorem test_decode_atan2sqrt :
    decode 0b101010010110111010101001011011110#33 = .atan2sqrt 21214#16 21213#16 := by decide
theorem test_decode_all_ones : decode 0x1FFFFFFFF#33 = .atan2sqrt 0xFFFF#16 0xFFFF#16 := by decide
theorem test_encode_program_p2 : encode (.atan2sqrt 0x91C9#16 0xD830#16) = 0x1D83091C9#33 := by decide
theorem test_table_word : decodeTableWord 40 0x0FFFF2000 = some (.sincos 0x2000#16 0xFFFF#16) := by decide
theorem test_table_word_rejects_bit_33 : decodeNumber 0x200000000 = .error .aboveBit32 := by rfl

/-! ### One step -/

/-- Right after reset the host offers command `c` at the next edge. -/
def offered (c : Instr) : State := { State.reset with inputs := [Inputs.offerWord (encode c)] }

/-- Fifteen edges on which the host offers another command all the time, without reset. -/
def otherOffers : List Inputs := List.replicate 15 (Inputs.offerWord (encode (.sincos 1#16 2#16)))

/-- The next state of an outcome. -/
def nextOf (o : Host.Outcome State Fault Refusal) : State :=
  match o with
  | .next s => s
  | .fault _ => State.reset
  | .refused _ => State.reset

/-- In ROT mode, after edge 29 of program P4: i = 3, x = -29605, y = -2277, z = -801. -/
def midRotation : State :=
  { State.reset with
    x := BitVec.ofInt 32 (-29605), y := BitVec.ofInt 32 (-2277), z := BitVec.ofInt 16 (-801), i := 3, phase := .iter }

/-- In VEC mode with the final triple of trace 2.4, before the FINISH step (the example of R76). -/
def beforeFinish : State :=
  { State.reset with x := 8238#32, y := 0#32, z := 26057#16, i := 13, mode := .vec, phase := .finish }

/-- After the LOAD step of SINCOS 8192 (95_test_vectors.md program P4, edge 1). -/
def loaded : State := { State.reset with x := 18218#32, z := 8192#16, phase := .iter }

/-- Program P4, edge 1: LOAD of SINCOS 8192. -/
theorem test_sincos_load : step (offered (.sincos 8192#16 0#16)) = .next loaded := by rfl

/-- Program P4, edge 30: floors of negative values, x = -29605 + asr(-2277, 3) = -29890, y = 1424, z = 496. -/
theorem test_sincos_iteration :
    (nextOf (step midRotation)).triple = ⟨-29890, 1424, 496#16⟩ ∧ (nextOf (step midRotation)).i = 4 := by decide

/-- The example of R73: ATAN2SQRT 3000, -4000 loads (4000, -3000, -32768). -/
theorem test_atan2sqrt_load :
    (nextOf (step (offered (.atan2sqrt 3000#16 (BitVec.ofInt 16 (-4000)))))).triple = ⟨4000, -3000, 0x8000#16⟩ := by
  decide +kernel

/-- The example of R76: r0 = 26057, r1 = 5002, rsp_valid = 1, phase = IDLE. -/
theorem test_atan2sqrt_finish :
    (nextOf (step beforeFinish)).response = ⟨26057#16, 5002#16⟩ ∧ (nextOf (step beforeFinish)).rspValid = true ∧
      (nextOf (step beforeFinish)).phase = .idle := by decide

/-- Program P4, edge 24: a reset in mid-command clears every register (R94, R95). -/
theorem test_reset_in_mid_command :
    step { midRotation with inputs := [{ Inputs.idle with rst := true }] } = .next State.reset := by rfl

/-! ### Witnesses: for each statement with hypotheses, a state and operands that meet all of them -/

theorem witness_decodeAndEncode : (Instr.sincos 1#16 2#16).wellFormed = true := by decide

theorem witness_opcodeMap :
    0x0FFFFFFFF#33 &&& 0x100000000#33 = 0x000000000#33 ∧ 0x100000000#33 &&& 0x100000000#33 = 0x100000000#33 := by
  decide

theorem witness_tableReach : 14 ≤ 14 ∧ (1 : Nat) ≠ 2 ∧ (0 : IterIndex) < 13 := by decide

theorem witness_workingCoordinates : (14 : Nat) ≤ 14 := by decide

theorem witness_sincosInitialTriple :
    sincosFlip 0x3FFF#16 = false ∧ sincosFlip 0x4000#16 = true ∧ sincosFlip 0xBFFF#16 = true ∧
      sincosFlip 0xC000#16 = false := by decide

theorem witness_atan2InitialTriple :
    0 ≤ (0#16).toInt ∧ (0xFFFF#16).toInt < 0 ∧ (0x8000#16).toInt < 0 ∧ 0 ≤ (0x7FFF#16).toInt := by decide

theorem witness_magnitudeAtBothSidesOfTheWrap :
    gainNorm (cordicRun .vec (atan2Init 23170#16 23170#16)).x = 32767 ∧
      gainNorm (cordicRun .vec (atan2Init 0x8066#16 2533#16)).x = 32768 := by decide +kernel

theorem witness_lengthsUpTo32700 :
    (0#16).toInt ^ 2 + (32700#16).toInt ^ 2 ≤ 32700 ^ 2 ∧ ¬(0#16).toInt ^ 2 + (32701#16).toInt ^ 2 ≤ 32700 ^ 2 := by
  decide

theorem noResetFor_otherOffers (s : State) : ({ s with inputs := otherOffers } : State).noResetFor 15 := by
  refine ⟨by simp [otherOffers], fun p hp => ?_⟩
  obtain ⟨-, rfl⟩ := List.mem_replicate.mp (List.mem_of_mem_take hp)
  rfl

theorem witness_commandCompletes :
    ({ State.reset with inputs := otherOffers } : State).phase = .idle ∧
      ({ State.reset with inputs := otherOffers } : State).noResetFor 15 :=
  ⟨rfl, noResetFor_otherOffers _⟩

theorem witness_reset : ({ midRotation with inputs := [{ Inputs.idle with rst := true }] } : State).sampled.rst = true := by
  decide

theorem witness_load_sincos :
    (offered (.sincos 1#16 2#16)).sampled.rst = false ∧ (offered (.sincos 1#16 2#16)).phase = .idle ∧
      (offered (.sincos 1#16 2#16)).sampled.cmdValid = true ∧ (offered (.sincos 1#16 2#16)).sampled.cmdOp = 0#1 := by
  decide

theorem witness_load_atan2sqrt :
    (offered (.atan2sqrt 1#16 2#16)).sampled.rst = false ∧ (offered (.atan2sqrt 1#16 2#16)).phase = .idle ∧
      (offered (.atan2sqrt 1#16 2#16)).sampled.cmdValid = true ∧
      (offered (.atan2sqrt 1#16 2#16)).sampled.cmdOp = 1#1 := by decide

theorem witness_hold :
    ({ State.reset with inputs := [Inputs.idle] } : State).phase = .idle ∧
      ({ State.reset with inputs := [Inputs.idle] } : State).quietFor 1 :=
  ⟨rfl, by simp, fun p hp => by simp at hp; subst hp; exact ⟨rfl, rfl⟩⟩

theorem witness_iter :
    midRotation.sampled.rst = false ∧ midRotation.phase = .iter ∧ midRotation.i ≠ 13 ∧
      ({ midRotation with i := 13 } : State).phase = .iter := by decide

theorem witness_finish :
    beforeFinish.sampled.rst = false ∧ beforeFinish.phase = .finish ∧ beforeFinish.mode = .vec ∧
      ({ beforeFinish with mode := .rot } : State).mode = .rot := by decide

theorem witness_stepRunsDecoded :
    decode (offered (.atan2sqrt 1#16 2#16)).sampled.cmdWord = .atan2sqrt 1#16 2#16 := by decide

theorem witness_nothingListed :
    State.reset.inputs = [] ∧ midRotation.inputs = [] ∧ beforeFinish.inputs = [] := by decide

theorem witness_fetchWord : decodeTableWord 40 0x1FFFF0000 = some (.atan2sqrt 0#16 0xFFFF#16) := by decide

theorem witness_frame :
    (∃ t, exec (.sincos 1#16 2#16) State.reset = .next t) ∧ (∃ t, exec (.sincos 1#16 2#16) midRotation = .next t) ∧
      ∃ t, exec (.atan2sqrt 1#16 2#16) beforeFinish = .next t :=
  ⟨⟨_, rfl⟩, ⟨_, rfl⟩, ⟨_, rfl⟩⟩

/-- A state that accepts SINCOS 8192 and is offered another command at the 15 edges after. -/
def acceptsThenOffers : State :=
  { State.reset with inputs := Inputs.offerWord (encode (.sincos 8192#16 0#16)) :: otherOffers }

theorem witness_accepts :
    acceptsThenOffers.accepts (.sincos 8192#16 0#16) ∧ acceptsThenOffers.advanceInputs.noResetFor 15 :=
  ⟨⟨rfl, rfl, rfl, by decide⟩, noResetFor_otherOffers State.reset⟩

theorem witness_unsampledPorts :
    midRotation.phase ≠ .idle ∧ (Inputs.offerWord 0x1FFFFFFFF#33).rst = Inputs.idle.rst ∧
      Inputs.idle.cmdValid = false := by decide

theorem witness_held :
    ({ State.reset with inputs := List.replicate 17 (Inputs.offerWord (encode (.sincos 1#16 2#16))) } : State).accepts
        (.sincos 1#16 2#16) ∧
      ({ State.reset with
          inputs := List.replicate 17 (Inputs.offerWord (encode (.sincos 1#16 2#16))) } : State).inputs.tail =
        List.replicate 16 (Inputs.offerWord (encode (.sincos 1#16 2#16))) ++ [] :=
  ⟨⟨rfl, rfl, rfl, by decide⟩, by decide⟩

theorem witness_withdrawn :
    otherOffers.length = 15 ∧ (List.replicate 15 Inputs.idle).length = 15 ∧
      ∀ q ∈ otherOffers ++ List.replicate 15 Inputs.idle, q.rst = false := by decide

theorem witness_history :
    (offered (.sincos 1#16 2#16)).accepts (.sincos 1#16 2#16) ∧
      ({ offered (.sincos 1#16 2#16) with x := 5#32, r0 := 7#16, rspValid := true } : State).accepts
        (.sincos 1#16 2#16) :=
  ⟨⟨rfl, rfl, rfl, by decide⟩, ⟨rfl, rfl, rfl, by decide⟩⟩

theorem witness_rspValid : ∃ t, step beforeFinish = .next t := ⟨_, rfl⟩

/-- After a reset edge the first state is not in phase FINISH, and a quiet edge can follow. -/
theorem witness_resetDiscards :
    ∃ s : State, s.phase = .iter ∧ s.sampled.rst = true ∧ s.advanceInputs.quietFor 1 ∧
      ∀ t, s.afterEdges 1 = .next t → t.phase ≠ .finish :=
  ⟨{ midRotation with inputs := [{ Inputs.idle with rst := true }, Inputs.idle] }, rfl, rfl,
    ⟨by decide, fun p hp => by
      have : p = Inputs.idle := by simpa [State.advanceInputs] using hp
      subst this; exact ⟨rfl, rfl⟩⟩,
    fun t ht => by
      have : t = _ := (Host.Outcome.next.inj ht).symm
      subst this; decide⟩

/-- The invariant's phases ITER and FINISH have states that meet it: SINCOS 8192 just loaded, and the final triple of
trace 2.4. -/
theorem witness_traceable : loaded.Traceable ∧ (∃ t, step loaded = .next t) ∧ beforeFinish.Traceable :=
  ⟨⟨rfl, .sincos 8192#16 0#16, rfl, by decide⟩, ⟨_, rfl⟩,
    ⟨rfl, rfl, .atan2sqrt 3000#16 (BitVec.ofInt 16 (-4000)), rfl, by decide +kernel⟩⟩

end Sys2Proof.Tests
end

section
/-! The step functions read forward: the two cases of ITER (43_pipeline_sequencer.md R75), and one equation per case of
R72 for the step as a whole (the inversion is `step_cases`). -/

namespace Sys2Proof.Machine

/-- Iteration number 13 is the last: phase becomes FINISH (R75). -/
theorem iterStep_of_last {s : State} (h : s.i = 13) :
    iterStep s = { s.writeTriple (cordicStep s.mode s.i s.triple) with phase := .finish } := if_pos h

/-- Any earlier iteration moves the index on (R75). -/
theorem iterStep_of_not_last {s : State} (h : s.i ≠ 13) :
    iterStep s = { s.writeTriple (cordicStep s.mode s.i s.triple) with i := s.i + 1 } := if_neg h

/-- RESET wins in every phase (R94, R95). -/
theorem step_of_rst {s : State} (hr : s.sampled.rst = true) : step s = .next (resetStep s.advanceInputs) := by
  simp [step, hr]

/-- A command presented in phase IDLE is loaded (R49, R73). -/
theorem step_of_load {s : State} (hr : s.sampled.rst = false) (hp : s.phase = .idle)
    (hv : s.sampled.cmdValid = true) :
    step s = .next (loadStep (commandMode (decode s.sampled.cmdWord)) (commandInit (decode s.sampled.cmdWord))
      s.advanceInputs) := by
  have hexec := exec_idle (decode s.sampled.cmdWord) (s := s.advanceInputs) hp
  simp [step, hr, hv, hexec]

/-- Phase IDLE without a command: HOLD (R74). -/
theorem step_of_hold {s : State} (hr : s.sampled.rst = false) (hp : s.phase = .idle)
    (hv : s.sampled.cmdValid = false) : step s = .next (holdStep s.advanceInputs) := by
  have hown := ownStep_idle (s := s.advanceInputs) hp
  simp [step, hr, hv, hown]

/-- A busy block performs its own step, whether or not a command is presented (R85, R97). -/
theorem step_of_busy {s : State} (hr : s.sampled.rst = false) (hp : s.phase ≠ .idle) :
    step s = .next (ownStep s.advanceInputs) := by
  have hexec := exec_busy (decode s.sampled.cmdWord) (s := s.advanceInputs) hp
  simp [step, hr, hexec]

/-- Phase ITER: one iteration (R75). -/
theorem step_of_iter {s : State} (hr : s.sampled.rst = false) (hp : s.phase = .iter) :
    step s = .next (iterStep s.advanceInputs) := by
  rw [step_of_busy hr (by simp [hp]), ownStep_iter (by simpa using hp)]

/-- Phase FINISH: the results are written (R76). -/
theorem step_of_finish {s : State} (hr : s.sampled.rst = false) (hp : s.phase = .finish) :
    step s = .next (finishStep s.advanceInputs) := by
  rw [step_of_busy hr (by simp [hp]), ownStep_finish (by simpa using hp)]

/-- The edge that accepts command `c` loads it (R49, R73). -/
theorem step_of_accepts {s : State} {c : Instr} (h : s.accepts c) :
    step s = .next (loadStep (commandMode c) (commandInit c) s.advanceInputs) := by
  obtain ⟨hp, hr, hv, hw⟩ := h
  rw [step_of_load hr hp hv, decode_of_eq_encode hw]

end Sys2Proof.Machine
end

section
/-! The outputs and the flag (10_state.md R19, R20): O41 and O40. -/

namespace Sys2Proof.Machine

/-- cmd_ready = 1 exactly in phase IDLE (R20). -/
theorem cmdReady_iff (s : State) : s.cmdReady = true ↔ s.phase = .idle := by simp [State.cmdReady]

/-- Settles O41: cmd_ready compares phase with IDLE, and busy is the negated comparison. -/
theorem readyAndBusyFollowPhase : Obligations.ReadyAndBusyFollowPhase :=
  fun s => ⟨cmdReady_iff s, rfl⟩

/-- The iteration does not read rsp_valid. -/
theorem iterStep_withRspValid (s : State) (b : Bool) :
    iterStep { s with rspValid := b } = { iterStep s with rspValid := b } := by
  by_cases hi : s.i = 13
  · rw [iterStep_of_last hi, iterStep_of_last (s := { s with rspValid := b }) hi]; rfl
  · rw [iterStep_of_not_last hi, iterStep_of_not_last (s := { s with rspValid := b }) hi]; rfl

/-- What a step does to rsp_valid, by the case of R72 (R19). -/
theorem step_rspValid {s t : State} (h : step s = .next t) :
    (s.sampled.rst = true → t.rspValid = false) ∧
    (s.sampled.rst = false → s.phase = .idle → s.sampled.cmdValid = true → t.rspValid = false) ∧
    (s.sampled.rst = false → s.phase = .idle → s.sampled.cmdValid = false → t.rspValid = s.rspValid) ∧
    (s.sampled.rst = false → s.phase = .iter → t.rspValid = s.rspValid) ∧
    (s.sampled.rst = false → s.phase = .finish → t.rspValid = true) := by
  obtain ⟨hr, rfl⟩ | ⟨hr, hp, hv, c, -, rfl⟩ | ⟨hr, hp, hv, rfl⟩ | ⟨hr, hp, rfl⟩ | ⟨hr, hp, rfl⟩ := step_cases h
  · simp [hr]
  · simp [hp, hv]
  · simp [hp, hr, hv]
  · simp [hp, hr]
  · simp [hp, hr]

/-- No step reads rsp_valid: from another value of it the same case of R72 applies, and the next states differ in
rsp_valid alone (R19). -/
theorem step_withRspValid {s t : State} (b : Bool) (h : step s = .next t) :
    ∃ b', step { s with rspValid := b } = .next { t with rspValid := b' } := by
  obtain ⟨hr, rfl⟩ | ⟨hr, hp, hv, c, rfl, rfl⟩ | ⟨hr, hp, hv, rfl⟩ | ⟨hr, hp, rfl⟩ | ⟨hr, hp, rfl⟩ := step_cases h
  · exact ⟨false, step_of_rst hr⟩
  · exact ⟨false, step_of_load hr hp hv⟩
  · exact ⟨b, step_of_hold hr hp hv⟩
  · exact ⟨b, (step_of_iter (s := { s with rspValid := b }) hr hp).trans
      (congrArg _ (iterStep_withRspValid s.advanceInputs b))⟩
  · exact ⟨true, step_of_finish hr hp⟩

/-- Settles O40: both parts go through the five cases of a step, `step_cases`. -/
theorem rspValidIsSetByFinishAlone : Obligations.RspValidIsSetByFinishAlone :=
  ⟨fun _ _ h => step_rspValid h, fun _ _ b h => step_withRspValid b h⟩

end Sys2Proof.Machine
end

section
/-! Nothing survives from one command to the next (10_state.md R26): O39. LOAD overwrites every register but r0 and
r1; no step before FINISH reads those two; FINISH, or a reset on the way, overwrites them. -/

namespace Sys2Proof.Machine

/-- After LOAD at most r0 and r1 still tell two states with the same inputs apart (R73). -/
theorem loadStep_eq_writeResponse (m : Mode) (t : Triple) {s s' : State} (h : s.inputs = s'.inputs) :
    loadStep m t s' = (loadStep m t s).writeResponse s'.response := by
  cases s
  cases s'
  cases h
  rfl

/-- The iteration neither reads nor writes r0 and r1 (R75). -/
theorem iterStep_writeResponse (s : State) (r : Response) :
    iterStep (s.writeResponse r) = (iterStep s).writeResponse r := by
  by_cases hi : s.i = 13
  · rw [iterStep_of_last hi, iterStep_of_last (s := s.writeResponse r) hi]; rfl
  · rw [iterStep_of_not_last hi, iterStep_of_not_last (s := s.writeResponse r) hi]; rfl

/-- A reset edge forgets r0 and r1 (R94). -/
theorem afterEdges_writeResponse_of_rst {s : State} (r : Response) (n : Nat) (hr : s.sampled.rst = true) :
    (s.writeResponse r).afterEdges (n + 1) = s.afterEdges (n + 1) :=
  (afterEdges_succ n (step_of_rst (s := s.writeResponse r) hr)).trans (afterEdges_succ n (step_of_rst hr)).symm

/-- From phase FINISH on, what r0 and r1 held is forgotten at the next edge, whatever it is (R76, R94). -/
theorem afterEdges_writeResponse_of_finish {s : State} (r : Response) (n : Nat) (hp : s.phase = .finish) :
    (s.writeResponse r).afterEdges (n + 1) = s.afterEdges (n + 1) := by
  cases hr : s.sampled.rst with
  | true => exact afterEdges_writeResponse_of_rst r n hr
  | false =>
    exact (afterEdges_succ n (step_of_finish (s := s.writeResponse r) hr hp)).trans
      (afterEdges_succ n (step_of_finish hr hp)).symm

/-- From phase ITER on, what r0 and r1 held is forgotten once the iterations left and FINISH have had their edges,
whatever the inputs at them. -/
theorem afterEdges_writeResponse_of_iter {s : State} (r : Response) (n : Nat) (hp : s.phase = .iter)
    (hn : 15 ≤ (s.i : Nat) + n) : (s.writeResponse r).afterEdges n = s.afterEdges n := by
  induction n generalizing s with
  | zero => have := s.i.isLt; omega
  | succ n ih =>
    cases hr : s.sampled.rst with
    | true => exact afterEdges_writeResponse_of_rst r n hr
    | false =>
      have hstep : step (s.writeResponse r) = .next ((iterStep s.advanceInputs).writeResponse r) :=
        (step_of_iter (s := s.writeResponse r) hr hp).trans
          (congrArg _ (iterStep_writeResponse s.advanceInputs r))
      rw [afterEdges_succ n hstep, afterEdges_succ n (step_of_iter hr hp)]
      by_cases hi : s.i = 13
      · obtain ⟨k, rfl⟩ : ∃ k, n = k + 1 := ⟨n - 1, by simp [hi] at hn; omega⟩
        exact afterEdges_writeResponse_of_finish r k (by simp [hi])
      · have hval : ((iterStep s.advanceInputs).i : Nat) = s.i + 1 := by simp [hi, iterIndex_succ_val hi]
        exact ih (by simp [hi, hp]) (by omega)

/-- Settles O39: after LOAD the two states differ at most in r0 and r1, and the 15 edges that follow forget these. -/
theorem nothingSurvivesFromOneCommandToTheNext : Obligations.NothingSurvivesFromOneCommandToTheNext := by
  intro s s' c hs hs' hin
  have hload : loadStep (commandMode c) (commandInit c) s'.advanceInputs =
      (loadStep (commandMode c) (commandInit c) s.advanceInputs).writeResponse s'.response :=
    loadStep_eq_writeResponse _ _ (congrArg List.tail hin)
  rw [afterEdges_succ 15 (step_of_accepts hs), afterEdges_succ 15 (step_of_accepts hs'), hload]
  exact (afterEdges_writeResponse_of_iter _ 15 (loadStep_phase ..) (by simp)).symm

end Sys2Proof.Machine
end

section
/-! The arctangent table against the real arctangent (20_memory.md R30): O7. The arctangent is enclosed between two
consecutive partial sums of its alternating power series, and pi between two decimals; what is left is a comparison of
rational numbers at each index. -/

namespace Sys2Proof.Machine

/-- `k` is the integer nearest to `c / a`, by a comparison of products. -/
theorem abs_sub_div_lt_half {k c a : ℝ} (ha : 0 < a) (hlo : (k - 1 / 2) * a < c) (hhi : c < (k + 1 / 2) * a) :
    |k - c / a| < 1 / 2 := by
  have hbelow := (lt_div_iff₀ ha).mpr hlo
  have habove := (div_lt_iff₀ ha).mpr hhi
  rw [abs_lt]
  constructor <;> linarith

/-- The size of term number `k` of the power series of the arctangent. -/
noncomputable def arctanTerm (x : ℝ) (k : ℕ) : ℝ := x ^ (2 * k + 1) / (2 * k + 1 : ℕ)

/-- The sum of the first `n` terms of the power series of the arctangent, with their alternating signs. -/
noncomputable def arctanSum (n : ℕ) (x : ℝ) : ℝ := ∑ k ∈ Finset.range n, (-1) ^ k * arctanTerm x k

theorem arctanTerm_antitone {x : ℝ} (h₀ : 0 ≤ x) (h₁ : x ≤ 1) : Antitone (arctanTerm x) := by
  intro j k hjk
  unfold arctanTerm
  gcongr ?_ / (?_ : ℕ)
  · exact pow_le_pow_of_le_one h₀ h₁ (by omega)
  · omega

theorem arctanSum_tendsto {x : ℝ} (h₀ : 0 ≤ x) (h₁ : x < 1) :
    Filter.Tendsto (arctanSum · x) Filter.atTop (nhds (Real.arctan x)) := by
  have hx : ‖x‖ < 1 := by rwa [Real.norm_of_nonneg h₀]
  simpa only [arctanSum, arctanTerm, mul_div_assoc] using (Real.hasSum_arctan hx).tendsto_sum_nat

/-- An even number of terms does not go past the arctangent, one term more does not fall short of it. -/
theorem arctanSum_bounds {x : ℝ} (h₀ : 0 ≤ x) (h₁ : x < 1) (k : ℕ) :
    arctanSum (2 * k) x ≤ Real.arctan x ∧ Real.arctan x ≤ arctanSum (2 * k + 1) x :=
  have hlim := arctanSum_tendsto h₀ h₁
  have hanti := arctanTerm_antitone h₀ h₁.le
  ⟨hanti.alternating_series_le_tendsto hlim k, hanti.tendsto_le_alternating_series hlim k⟩

/-- `n` is the integer nearest to the angle `θ` in units of 2 pi / 65536, by bounds of `θ` that are free of pi. -/
theorem abs_sub_angleUnits_lt_half {n θ : ℝ} (hn : 1 / 2 ≤ n)
    (hlo : (n - 1 / 2) * (2 * 3.141593) < θ * 65536) (hhi : θ * 65536 < (n + 1 / 2) * (2 * 3.141592)) :
    |n - θ * 65536 / (2 * Real.pi)| < 1 / 2 := by
  have hbelow : (n - 1 / 2) * (2 * Real.pi) ≤ (n - 1 / 2) * (2 * 3.141593) := by
    gcongr
    exact Real.pi_lt_d6.le
  have habove : (n + 1 / 2) * (2 * 3.141592) ≤ (n + 1 / 2) * (2 * Real.pi) := by
    gcongr
    exact Real.pi_gt_d6.le
  exact abs_sub_div_lt_half (by positivity) (hbelow.trans_lt hlo) (hhi.trans_le habove)

/-- The table's words as numbers (R31). -/
theorem atan_toNat (i : IterIndex) :
    (atan i).toNat = [8192, 4836, 2555, 1297, 651, 326, 163, 81, 41, 20, 10, 5, 3, 1].getD i 0 := by
  revert i
  decide

/-- Six and seven terms of the series decide every entry after the first. -/
theorem atan_succ_between_arctanSums (j : Fin 13) :
    1 / 2 ≤ ((atan j.succ).toNat : ℝ) ∧
    (((atan j.succ).toNat : ℝ) - 1 / 2) * (2 * 3.141593) < arctanSum 6 (2⁻¹ ^ (j.succ : ℕ)) * 65536 ∧
    arctanSum 7 (2⁻¹ ^ (j.succ : ℕ)) * 65536 < (((atan j.succ).toNat : ℝ) + 1 / 2) * (2 * 3.141592) := by
  simp only [atan_toNat, Fin.val_succ]
  fin_cases j <;> norm_num [arctanSum, arctanTerm, Finset.sum_range_succ]

/-- Settles O7: entry 0 is exact, for the arctangent of 1 is pi / 4; the others are decided by the partial sums. -/
theorem tableEntriesAreNearestArctangents : Obligations.TableEntriesAreNearestArctangents := by
  intro i
  cases i using Fin.cases with
  | zero =>
    have hexact : Real.pi / 4 * 65536 / (2 * Real.pi) = 8192 := by
      field_simp
      norm_num
    simp [atan_toNat, hexact]
  | succ j =>
    obtain ⟨hn, hlo, hhi⟩ := atan_succ_between_arctanSums j
    have hx : (2 : ℝ)⁻¹ ^ (j.succ : ℕ) < 1 := pow_lt_one₀ (by norm_num) (by norm_num) (by simp)
    obtain ⟨hsum₆, hsum₇⟩ := arctanSum_bounds (by positivity) hx 3
    exact abs_sub_angleUnits_lt_half hn (by linarith) (by linarith)

end Sys2Proof.Machine
end

section
/-! The gain constants (20_memory.md R33): O9. The product of the square roots is the square root of one rational
number, which fixes it to 1e-9; the two roundings follow from that figure. -/

namespace Sys2Proof.Machine

/-- A, the gain of the 14 iterations (R33). -/
noncomputable def cordicGain : ℝ := ∏ i : IterIndex, Real.sqrt (1 + ((2 : ℝ)⁻¹) ^ (2 * (i : ℕ)))

theorem cordicGain_eq_sqrt : cordicGain = Real.sqrt (∏ i : IterIndex, (1 + ((2 : ℝ)⁻¹) ^ (2 * (i : ℕ)))) :=
  (Real.sqrt_prod _ fun _ _ => by positivity).symm

theorem cordicGain_bounds : 1.646760253 < cordicGain ∧ cordicGain < 1.646760255 := by
  rw [cordicGain_eq_sqrt, Real.lt_sqrt (by norm_num), Real.sqrt_lt' (by norm_num),
    Fin.prod_univ_eq_prod_range (fun k => 1 + ((2 : ℝ)⁻¹) ^ (2 * k))]
  norm_num [Finset.prod_range_succ]

theorem abs_cordicGain_sub_lt : |cordicGain - 1.6467602540| < 1 / 10 ^ 9 := by
  obtain ⟨hlo, hhi⟩ := cordicGain_bounds
  rw [abs_lt]
  constructor <;> linarith

theorem cordicGain_pos : 0 < cordicGain := lt_trans (by norm_num) cordicGain_bounds.1

/-- K_ROT is 30000 / A rounded (R33). -/
theorem kRot_nearest : |(kRot : ℝ) - 30000 / cordicGain| < 1 / 2 := by
  obtain ⟨hlo, hhi⟩ := cordicGain_bounds
  apply abs_sub_div_lt_half cordicGain_pos <;> simp only [kRot, Int.cast_ofNat] <;> linarith

/-- K_VEC is 2^15 / A rounded (R33). -/
theorem kVec_nearest : |(kVec : ℝ) - 2 ^ 15 / cordicGain| < 1 / 2 := by
  obtain ⟨hlo, hhi⟩ := cordicGain_bounds
  apply abs_sub_div_lt_half cordicGain_pos <;> simp only [kVec, Int.cast_ofNat] <;> linarith

/-- Settles O9: the figure of A and the two roundings that follow from it. -/
theorem gainConstantsAreRoundedReciprocals : Obligations.GainConstantsAreRoundedReciprocals :=
  ⟨abs_cordicGain_sub_lt, kRot_nearest, kVec_nearest, rfl, rfl, rfl⟩

end Sys2Proof.Machine
end

section
/-! The opcode map (30_encoding.md R48): O3. The map's mask selects CMD[32], and that bit is field op, so the two rows
and the two branches of the decoder are told apart by the same bit. -/

namespace Sys2Proof

/-- The mask of the opcode map keeps CMD[32] and clears every other bit. -/
theorem and_opcodeMask (w : CmdWord) :
    w &&& 0x100000000#33 = if w.getLsbD 32 then 0x100000000#33 else 0x000000000#33 :=
  BitVec.and_twoPow w 32

/-- CMD[32] clear is the match of the row of SINCOS. -/
theorem and_opcodeMask_eq_zero_iff (w : CmdWord) : w &&& 0x100000000#33 = 0x000000000#33 ↔ w.getLsbD 32 = false := by
  cases hb : w.getLsbD 32 <;> simp [and_opcodeMask, hb, -BitVec.getLsbD_eq_getElem]

/-- CMD[32] set is the match of the row of ATAN2SQRT. -/
theorem and_opcodeMask_eq_mask_iff (w : CmdWord) : w &&& 0x100000000#33 = 0x100000000#33 ↔ w.getLsbD 32 = true := by
  cases hb : w.getLsbD 32 <;> simp [and_opcodeMask, hb, -BitVec.getLsbD_eq_getElem]

/-- Field op is CMD[32] (R45). -/
theorem opField_eq_ofBool (w : CmdWord) : opField w = BitVec.ofBool (w.getLsbD 32) := by
  apply BitVec.eq_of_getLsbD_eq
  intro k hk
  obtain rfl : k = 0 := by omega
  simp [opField, BitVec.getLsbD_extractLsb', -BitVec.getLsbD_eq_getElem]

/-- A word with CMD[32] clear is a SINCOS command (R48). -/
theorem decode_of_bit32_clear {w : CmdWord} (hb : w.getLsbD 32 = false) :
    decode w = .sincos (aField w) (bField w) := by
  simp [decode, opField_eq_ofBool, hb, -BitVec.getLsbD_eq_getElem]

/-- A word with CMD[32] set is an ATAN2SQRT command (R48). -/
theorem decode_of_bit32_set {w : CmdWord} (hb : w.getLsbD 32 = true) :
    decode w = .atan2sqrt (aField w) (bField w) := by
  simp [decode, opField_eq_ofBool, hb, -BitVec.getLsbD_eq_getElem]

/-- Settles O3: each of the four clauses is read off the value of CMD[32]. -/
theorem opcodeMapDecidesByBit32 : Obligations.OpcodeMapDecidesByBit32 := by
  intro w
  refine ⟨?exactlyOneRow, and_opcodeMask_eq_zero_iff w, fun hw => ⟨beq_iff_eq.mpr hw, ?sincos⟩,
    fun hw => ⟨beq_iff_eq.mpr hw, ?atan2sqrt⟩⟩
  case exactlyOneRow => rw [and_opcodeMask_eq_zero_iff, Ne, and_opcodeMask_eq_mask_iff, Bool.not_eq_true]
  case sincos => exact decode_of_bit32_clear ((and_opcodeMask_eq_zero_iff w).mp hw)
  case atan2sqrt => exact decode_of_bit32_set ((and_opcodeMask_eq_mask_iff w).mp hw)

end Sys2Proof
end

section
/-! The command ports (30_encoding.md R49): O35. Of this edge's inputs, only the edge that accepts a command reads more
than rst. -/

namespace Sys2Proof.Machine

/-- Without reset, an edge at which the block is busy or no command is presented performs the block's own step
(R72). -/
theorem step_of_not_accepting {s : State} (hr : s.sampled.rst = false)
    (h : s.phase ≠ .idle ∨ s.sampled.cmdValid = false) : step s = .next (ownStep s.advanceInputs) := by
  by_cases hp : s.phase = .idle
  · have hv : s.sampled.cmdValid = false := h.resolve_left (not_not_intro hp)
    rw [step_of_hold hr hp hv, ownStep_idle (by simpa using hp)]
  · exact step_of_busy hr hp

/-- Where this edge accepts no command, the next state depends on its inputs through rst alone (R49). -/
theorem step_eq_of_not_accepting (s : State) {p q : Inputs} (rest : List Inputs) (hr : p.rst = q.rst)
    (h : p.rst = true ∨ s.phase ≠ .idle ∨ (p.cmdValid = false ∧ q.cmdValid = false)) :
    step { s with inputs := p :: rest } = step { s with inputs := q :: rest } := by
  cases hp : p.rst with
  | true =>
    exact (step_of_rst (s := { s with inputs := p :: rest }) hp).trans
      (step_of_rst (s := { s with inputs := q :: rest }) (hr.symm.trans hp)).symm
  | false =>
    have hbusy : s.phase ≠ .idle ∨ (p.cmdValid = false ∧ q.cmdValid = false) :=
      h.resolve_left (by simp [hp])
    exact (step_of_not_accepting (s := { s with inputs := p :: rest }) hp (hbusy.imp_right And.left)).trans
      (step_of_not_accepting (s := { s with inputs := q :: rest }) (hr.symm.trans hp)
        (hbusy.imp_right And.right)).symm

/-- Settles O35: LOAD at the accepting edge, the two remaining kinds of step at any other; cmd_ready reads phase. -/
theorem portsMatterOnlyWhenACommandIsAccepted : Obligations.PortsMatterOnlyWhenACommandIsAccepted :=
  ⟨fun _ _ h => step_of_accepts h, fun s _ _ rest hr h => step_eq_of_not_accepting s rest hr h, fun _ _ => rfl⟩

end Sys2Proof.Machine
end

section
/-! Every command word is legal (30_encoding.md R50): O4. -/

namespace Sys2Proof

/-- Every command is well formed (R50). -/
theorem Instr.wellFormed_eq_true (i : Instr) : i.wellFormed = true := by
  cases i <;> rfl

namespace Machine

/-- Settles O4: a presented command is an offer of its mode and initial triple, and neither these nor the response of
SINCOS mention field B. -/
theorem everyWordRunsAndSincosIgnoresFieldB : Obligations.EveryWordRunsAndSincosIgnoresFieldB := by
  refine ⟨fun w s => ⟨(decode w).wellFormed_eq_true, _, exec_eq (decode w) s⟩, fun angle b b' s => ?_,
    fun _ _ _ => rfl⟩
  calc exec (.sincos angle b) s
      = .next (offerStep .rot (sincosInit angle) s) := exec_eq (.sincos angle b) s
    _ = exec (.sincos angle b') s := (exec_eq (.sincos angle b') s).symm

end Machine

end Sys2Proof
end

section
/-! The run (40_cordic_engine.md R59): O10. -/

namespace Sys2Proof.Machine

/-- R59's worked example in ROT mode: the angle 8192, pi / 4. -/
theorem cordicRun_rot_of_8192 : cordicRun .rot ⟨18218, 0, 8192#16⟩ = ⟨21213, 21214, 1#16⟩ := by
  decide +kernel

/-- R59's worked example in VEC mode: the point on the positive y axis. -/
theorem cordicRun_vec_of_30000 : cordicRun .vec ⟨0, 30000, 0#16⟩ = ⟨49404, 5, 16383#16⟩ := by
  decide +kernel

/-- Settles O10: the laws of `cordicUpTo` for no iteration, for one more and for all 14, and the two worked
examples. -/
theorem runIsFourteenStepsInOrder : Obligations.RunIsFourteenStepsInOrder :=
  ⟨cordicUpTo_zero, cordicUpTo_succ, cordicRun_eq_upTo, cordicRun_rot_of_8192, cordicRun_vec_of_30000⟩

end Sys2Proof.Machine
end

section
/-! The initial triple of SINCOS (41_sin_cos.md R64): O13. Bits 15 and 14 tell apart the four quarters of the range of
angles, and the exclusive or with 0x8000 is an addition of half a turn. -/

namespace Sys2Proof.Machine

/-- The two top bits of an angle differ exactly outside -16384..16383 (R64). -/
theorem sincosFlip_iff (a : Word16) : sincosFlip a = true ↔ 16384 ≤ a.toInt ∨ a.toInt ≤ -16385 := by
  have hlt : a.toNat < 65536 := a.isLt
  have hint : a.toInt = if 2 * a.toNat < 65536 then (a.toNat : ℤ) else (a.toNat : ℤ) - 65536 :=
    BitVec.toInt_eq_toNat_cond a
  simp only [sincosFlip, bne_iff_ne, ne_eq, decide_eq_decide, BitVec.getLsbD, Nat.testBit_eq_decide_div_mod_eq]
  omega

/-- An angle that is not flipped lies in -16384..16383 (R64). -/
theorem sincosFlip_eq_false_iff (a : Word16) : sincosFlip a = false ↔ -16384 ≤ a.toInt ∧ a.toInt ≤ 16383 := by
  rw [← Bool.not_eq_true, sincosFlip_iff]
  omega

/-- Inverting bit 15 of a 16-bit number adds 32768 modulo 65536: the lower bits stay, the top one changes parity. -/
theorem xor_twoPow15_eq_add_mod {n : ℕ} (hn : n < 2 ^ 16) : n ^^^ 2 ^ 15 = (n + 2 ^ 15) % 2 ^ 16 := by
  have hlt : n ^^^ 2 ^ 15 < 2 ^ 16 := Nat.xor_lt_two_pow hn (by norm_num)
  have hlow : (n ^^^ 2 ^ 15) % 2 ^ 15 = n % 2 ^ 15 := by
    rw [Nat.xor_mod_two_pow, Nat.mod_self, Nat.xor_zero]
  have htop : (n ^^^ 2 ^ 15) / 2 ^ 15 % 2 = (n / 2 ^ 15 + 1) % 2 := by
    rw [Nat.xor_div_two_pow, Nat.xor_mod_two_eq, Nat.div_self (by norm_num)]
  omega

/-- Inverting the top bit of a word adds 32768 modulo 65536. -/
theorem xor_topBit_eq_add (a : Word16) : a ^^^ 0x8000#16 = a + 0x8000#16 := by
  apply BitVec.eq_of_toNat_eq
  rw [BitVec.toNat_xor, BitVec.toNat_add]
  exact xor_twoPow15_eq_add_mod a.isLt

/-- Turning an angle by half a turn is wrap16(a + 32768) (R64). -/
theorem xor_topBit_eq_wrap16 (a : Word16) : a ^^^ 0x8000#16 = wrap16 (a.toInt + 32768) := by
  rw [xor_topBit_eq_add, wrap16, BitVec.ofInt_add, BitVec.ofInt_toInt]
  rfl

/-- Half a turn forward and half a turn backward are the same angle (R64). -/
theorem wrap16_add_halfTurn (n : ℤ) : wrap16 (n + 32768) = wrap16 (n - 32768) := by
  apply BitVec.eq_of_toInt_eq
  rw [wrap16_toInt, wrap16_toInt, Int.bmod_def, Int.bmod_def]
  omega

/-- The initial triple in the right half-plane (R64). -/
theorem sincosInit_of_not_flip {a : Word16} (h : sincosFlip a = false) : sincosInit a = ⟨18218, 0, a⟩ := by
  simp [sincosInit, angleOperand, kRot, h]

/-- The initial triple in the left half-plane (R64). -/
theorem sincosInit_of_flip {a : Word16} (h : sincosFlip a = true) :
    sincosInit a = ⟨-18218, 0, wrap16 (a.toInt + 32768)⟩ := by
  simp [sincosInit, angleOperand, kRot, h, xor_topBit_eq_wrap16]

/-- The rotation starts from an angle of at most a quarter turn (R64). -/
theorem sincosInit_z_bounds (a : Word16) : -16384 ≤ (sincosInit a).z.toInt ∧ (sincosInit a).z.toInt ≤ 16383 := by
  cases h : sincosFlip a with
  | false =>
    rw [sincosInit_of_not_flip h]
    exact (sincosFlip_eq_false_iff a).mp h
  | true =>
    have houter := (sincosFlip_iff a).mp h
    have ha := toInt16_bounds a
    rw [sincosInit_of_flip h, wrap16_toInt, Int.bmod_def]
    omega

/-- Settles O13: the flip by the value of the angle, the two initial triples, and the range of z0. -/
theorem sincosInitialTriple : Obligations.SincosInitialTriple :=
  fun a => ⟨sincosFlip_iff a, sincosInit_of_not_flip, fun h => ⟨sincosInit_of_flip h, wrap16_add_halfTurn a.toInt⟩,
    sincosInit_z_bounds a⟩

end Sys2Proof.Machine
end

section
/-! The residual angle of a rotation (41_sin_cos.md R65). Before iteration i the angle lies in -w ≤ z < w for a width w
that the table alone determines: a step turns z towards 0 by the table's entry. -/

namespace Sys2Proof.Machine

/-- No entry of the table is above 8192, an eighth of a turn (R31). -/
theorem atan_toNat_le (i : IterIndex) : (atan i).toNat ≤ 8192 := by
  revert i
  decide

/-- Taking the table's entry from an angle that is not negative does not wrap (R15). -/
theorem toInt_wrap16_sub_atan (i : IterIndex) {z : Word16} (h : 0 ≤ z.toInt) :
    (wrap16 (z.toInt - (atan i).toNat)).toInt = z.toInt - (atan i).toNat := by
  have hz := toInt16_bounds z
  have hi := atan_toNat_le i
  exact wrap16_toInt_of_mem (by omega) (by omega)

/-- Adding the table's entry to a negative angle does not wrap (R15). -/
theorem toInt_wrap16_add_atan (i : IterIndex) {z : Word16} (h : z.toInt < 0) :
    (wrap16 (z.toInt + (atan i).toNat)).toInt = z.toInt + (atan i).toNat := by
  have hz := toInt16_bounds z
  have hi := atan_toNat_le i
  exact wrap16_toInt_of_mem (by omega) (by omega)

/-- The angle lies in -w ≤ z < w. -/
def Triple.AngleWithin (t : Triple) (w : ℤ) : Prop := -w ≤ t.z.toInt ∧ t.z.toInt < w

/-- The width after iteration i: the angle overshoots 0 by at most the table's entry, or stays short of 0. -/
def narrowedWidth (w : ℤ) (i : IterIndex) : ℤ := max (atan i).toNat (w - (atan i).toNat)

theorem cordicStep_rot_angleWithin {t : Triple} {w : ℤ} (i : IterIndex) (h : t.AngleWithin w) :
    (cordicStep .rot i t).AngleWithin (narrowedWidth w i) := by
  obtain ⟨hlo, hhi⟩ := h
  unfold Triple.AngleWithin narrowedWidth
  rcases lt_or_ge t.z.toInt 0 with hz | hz
  · rw [cordicStep_rot_of_neg i t hz, toInt_wrap16_add_atan i hz]
    omega
  · rw [cordicStep_rot_of_nonneg i t hz, toInt_wrap16_sub_atan i hz]
    omega

theorem cordicRun_rot_angleWithin {t : Triple} {w : ℤ} (h : t.AngleWithin w) :
    (cordicRun .rot t).AngleWithin (iterationOrder.foldl narrowedWidth w) :=
  List.foldl_rel h fun i _ _ _ hi => cordicStep_rot_angleWithin i hi

/-- From a quarter turn the 14 iterations leave an angle in -2..1 (R65). -/
theorem cordicRun_rot_residual {t : Triple} (hlo : -16384 ≤ t.z.toInt) (hhi : t.z.toInt ≤ 16383) :
    -2 ≤ (cordicRun .rot t).z.toInt ∧ (cordicRun .rot t).z.toInt ≤ 1 := by
  have hwidth : iterationOrder.foldl narrowedWidth 16384 = 2 := by decide
  have hrun : (cordicRun .rot t).AngleWithin (iterationOrder.foldl narrowedWidth 16384) :=
    cordicRun_rot_angleWithin ⟨hlo, Int.lt_add_one_of_le hhi⟩
  rw [hwidth] at hrun
  obtain ⟨hlo', hhi'⟩ := hrun
  exact ⟨hlo', Int.lt_add_one_iff.mp hhi'⟩

end Sys2Proof.Machine
end

section
/-! The size of the results of SINCOS (41_sin_cos.md R65): O14. The bound 30,004 is met exactly by some operands, so it
needs the runs themselves. The range of z is split by the sign of z at each iteration, with x and y computed once for
all angles of a part. A part is left as soon as no choice of the remaining directions can carry a coordinate above the
bound; away from the axes that is soon, and fewer than 200 parts are visited. -/

namespace Sys2Proof.Machine

/-- The magnitudes of x and y are at most those of the pair. -/
def Triple.CoordinatesWithin (t : Triple) (c : ℤ × ℤ) : Prop := |t.x| ≤ c.1 ∧ |t.y| ≤ c.2

/-- What iteration i can make of the magnitudes, whatever its direction; the 1 is for the floor of asr. -/
def grownMagnitudes (c : ℤ × ℤ) (i : IterIndex) : ℤ × ℤ :=
  (c.1 + (c.2 / 2 ^ (i : ℕ) + 1), c.2 + (c.1 / 2 ^ (i : ℕ) + 1))

/-- The floor of asr costs at most 1 in magnitude. -/
theorem abs_asr_le {v c : ℤ} (k : ℕ) (h : |v| ≤ c) : |asr v k| ≤ c / 2 ^ k + 1 := by
  obtain ⟨hlo, hhi⟩ := abs_le.mp h
  have hpos : (0 : ℤ) < 2 ^ k := by positivity
  have hbelow : -(c / 2 ^ k) - 1 ≤ v / 2 ^ k := by
    rw [Int.le_ediv_iff_mul_le hpos]
    have := Int.lt_ediv_add_one_mul_self c hpos
    linarith
  have habove : v / 2 ^ k ≤ c / 2 ^ k := Int.ediv_le_ediv hpos hhi
  rw [asr_eq_div, abs_le]
  constructor <;> linarith

/-- Adding or subtracting a term costs at most its magnitude. -/
theorem abs_add_direction_mul_le {d u v b c : ℤ} (hd : d = 1 ∨ d = -1) (hu : |u| ≤ b) (hv : |v| ≤ c) :
    |u - d * v| ≤ b + c ∧ |u + d * v| ≤ b + c := by
  simp only [abs_le] at hu hv ⊢
  rcases hd with rfl | rfl <;> omega

theorem cordicStep_coordinatesWithin {m : Mode} {t : Triple} {c : ℤ × ℤ} (i : IterIndex) (h : t.CoordinatesWithin c) :
    (cordicStep m i t).CoordinatesWithin (grownMagnitudes c i) := by
  obtain ⟨hx, hy⟩ := h
  have hd := direction_cases m t.y t.z
  exact ⟨(abs_add_direction_mul_le hd hx (abs_asr_le i hy)).1, (abs_add_direction_mul_le hd hy (abs_asr_le i hx)).2⟩

/-- No choice of the directions of the iterations `is` can carry (x, y) above 30,004. -/
def cannotExceed (is : List IterIndex) (x y : ℤ) : Bool :=
  let c := is.foldl grownMagnitudes (|x|, |y|)
  c.1 ≤ 30004 && c.2 ≤ 30004

theorem foldl_coordinatesWithin_of_cannotExceed {is : List IterIndex} {x y : ℤ} (h : cannotExceed is x y = true)
    (m : Mode) (z : Word16) :
    (is.foldl (fun u i => cordicStep m i u) ⟨x, y, z⟩).CoordinatesWithin (30004, 30004) := by
  have hgrown : (is.foldl (fun u i => cordicStep m i u) ⟨x, y, z⟩).CoordinatesWithin
      (is.foldl grownMagnitudes (|x|, |y|)) :=
    List.foldl_rel ⟨le_rfl, le_rfl⟩ fun i _ _ _ hi => cordicStep_coordinatesWithin i hi
  obtain ⟨hx, hy⟩ := hgrown
  simp only [cannotExceed, Bool.and_eq_true, decide_eq_true_eq] at h
  obtain ⟨hx', hy'⟩ := h
  exact ⟨hx.trans hx', hy.trans hy'⟩

/-- The iterations `is` in ROT mode keep (x, y) at or below 30,004 in magnitude for every angle from `lo` to `hi`: by
`cannotExceed`, or in the part of the angles that turns counter-clockwise and in the part that turns clockwise. -/
def rotationsStayWithin : List IterIndex → (x y lo hi : ℤ) → Bool
  | [], x, y, _, _ => cannotExceed [] x y
  | i :: is, x, y, lo, hi =>
    cannotExceed (i :: is) x y ||
      ((hi < 0 ||
          rotationsStayWithin is (x - asr y i) (y + asr x i) (max lo 0 - (atan i).toNat) (hi - (atan i).toNat)) &&
        (0 ≤ lo ||
          rotationsStayWithin is (x + asr y i) (y - asr x i) (lo + (atan i).toNat) (min hi (-1) + (atan i).toNat)))

theorem foldl_rot_coordinatesWithin {is : List IterIndex} {x y lo hi : ℤ} {z : Word16}
    (h : rotationsStayWithin is x y lo hi = true) (hlo : lo ≤ z.toInt) (hhi : z.toInt ≤ hi) :
    (is.foldl (fun u i => cordicStep .rot i u) ⟨x, y, z⟩).CoordinatesWithin (30004, 30004) := by
  induction is generalizing x y lo hi z with
  | nil => exact foldl_coordinatesWithin_of_cannotExceed h .rot z
  | cons i is ih =>
    simp only [rotationsStayWithin, Bool.or_eq_true, Bool.and_eq_true, decide_eq_true_eq] at h
    rcases h with hsettled | ⟨hccw, hcw⟩
    · exact foldl_coordinatesWithin_of_cannotExceed hsettled .rot z
    rw [List.foldl_cons]
    rcases lt_or_ge z.toInt 0 with hz | hz
    · have hnext := toInt_wrap16_add_atan i hz
      rw [cordicStep_rot_of_neg i ⟨x, y, z⟩ hz]
      exact ih (hcw.resolve_left (by omega)) (by rw [hnext]; omega) (by rw [hnext]; omega)
    · have hnext := toInt_wrap16_sub_atan i hz
      rw [cordicStep_rot_of_nonneg i ⟨x, y, z⟩ hz]
      exact ih (hccw.resolve_left (by omega)) (by rw [hnext]; omega) (by rw [hnext]; omega)

/-- The two start vectors with every angle the rotation can start from. -/
theorem rotationsStayWithin_of_startVectors :
    rotationsStayWithin iterationOrder 18218 0 (-16384) 16383 = true ∧
    rotationsStayWithin iterationOrder (-18218) 0 (-16384) 16383 = true := by
  decide

/-- The final coordinates of SINCOS are at most 30,004 in magnitude (R65). -/
theorem sincos_coordinatesWithin (a : Word16) : (cordicRun .rot (sincosInit a)).CoordinatesWithin (30004, 30004) := by
  obtain ⟨hright, hleft⟩ := rotationsStayWithin_of_startVectors
  obtain ⟨hlo, hhi⟩ := sincosInit_z_bounds a
  cases h : sincosFlip a with
  | false =>
    rw [sincosInit_of_not_flip h] at hlo hhi ⊢
    exact foldl_rot_coordinatesWithin hright hlo hhi
  | true =>
    rw [sincosInit_of_flip h] at hlo hhi ⊢
    exact foldl_rot_coordinatesWithin hleft hlo hhi

/-- Results of at most 30,004 in magnitude are not changed by the narrowing (R65). -/
theorem sincosResult_toInt_of_within {t : Triple} (h : t.CoordinatesWithin (30004, 30004)) :
    (sincosResult t).r0.toInt = t.y ∧ (sincosResult t).r1.toInt = t.x := by
  obtain ⟨hx, hy⟩ := h
  rw [abs_le] at hx hy
  exact ⟨wrap16_toInt_of_mem (by omega) (by omega), wrap16_toInt_of_mem (by omega) (by omega)⟩

/-- Settles O14: the bound of the coordinates, the narrowing that changes nothing within it, and the residual angle. -/
theorem sincosResultIsNeverNarrowed : Obligations.SincosResultIsNeverNarrowed := by
  intro a
  have hwithin := sincos_coordinatesWithin a
  obtain ⟨hsin, hcos⟩ := sincosResult_toInt_of_within hwithin
  obtain ⟨hlo, hhi⟩ := sincosInit_z_bounds a
  obtain ⟨hx, hy⟩ := hwithin
  exact ⟨hx, hy, hsin, hcos, cordicRun_rot_residual hlo hhi⟩

end Sys2Proof.Machine
end

section
/-! The initial triple of ATAN2SQRT (42_atan2_sqrt.md R68): O18. -/

namespace Sys2Proof.Machine

/-- The initial triple in the right half-plane and on the y axis (R68). -/
theorem atan2Init_of_nonneg (y : Word16) {x : Word16} (h : 0 ≤ x.toInt) : atan2Init y x = ⟨x.toInt, y.toInt, 0#16⟩ := by
  simp [atan2Init, coordinateOperand, sext32_eq_toInt, h]

/-- The initial triple in the left half-plane, turned by half a turn (R68). -/
theorem atan2Init_of_neg (y : Word16) {x : Word16} (h : x.toInt < 0) :
    atan2Init y x = ⟨-x.toInt, -y.toInt, BitVec.ofInt 16 (-32768)⟩ := by
  simp [atan2Init, coordinateOperand, sext32_eq_toInt, not_le.mpr h]

/-- The vectoring run starts in the right half-plane (R68). -/
theorem atan2Init_x_nonneg (y x : Word16) : 0 ≤ (atan2Init y x).x := by
  rcases lt_or_ge x.toInt 0 with h | h
  · rw [atan2Init_of_neg y h]
    exact neg_nonneg.mpr h.le
  · rw [atan2Init_of_nonneg y h]
    exact h

/-- Settles O18: the triple in each half-plane, the ranges of the exact negations, and the sign of x0. -/
theorem atan2InitialTriple : Obligations.Atan2InitialTriple := by
  intro y x
  refine ⟨atan2Init_of_nonneg y, fun h => ⟨atan2Init_of_neg y h, ?_⟩, atan2Init_x_nonneg y x⟩
  have hx := toInt16_bounds x
  have hy := toInt16_bounds y
  simp only [atan2Init_of_neg y h]
  omega

end Sys2Proof.Machine
end

section
/-! The length of (x, y) during a run (40_cordic_engine.md R60, its reason). As a complex number (x, y) is multiplied by
1 + d * 2^-i * I at iteration i, and the two floors add an error of at most 2; so after k iterations the length is the
initial one times the gain of the k iterations, to within an error of at most 2 for each, amplified by that gain. -/

namespace Sys2Proof.Machine

/-- (x, y) as a complex number. -/
noncomputable def Triple.point (t : Triple) : ℂ := ⟨t.x, t.y⟩

@[simp] theorem point_re (t : Triple) : t.point.re = t.x := rfl

@[simp] theorem point_im (t : Triple) : t.point.im = t.y := rfl

/-- The factor by which the ideal step of iteration i in direction d multiplies (x, y) (R55). -/
noncomputable def idealFactor (d : ℤ) (i : ℕ) : ℂ := ⟨1, d * (2 : ℝ)⁻¹ ^ i⟩

/-- The gain of iteration i: the magnitude of its ideal factor (R60). -/
noncomputable def stepGain (i : ℕ) : ℝ := Real.sqrt (1 + ((2 : ℝ)⁻¹) ^ (2 * i))

/-- The gain of the first k iterations. -/
noncomputable def gainUpTo (k : ℕ) : ℝ := ∏ i ∈ Finset.range k, stepGain i

theorem gainUpTo_fourteen : gainUpTo 14 = cordicGain := Finset.prod_range stepGain

theorem one_le_stepGain (i : ℕ) : 1 ≤ stepGain i :=
  Real.one_le_sqrt.mpr (le_add_of_nonneg_right (by positivity))

theorem one_le_gainUpTo (k : ℕ) : 1 ≤ gainUpTo k :=
  Finset.one_le_prod fun i _ => one_le_stepGain i

theorem gainUpTo_succ (k : ℕ) : gainUpTo (k + 1) = stepGain k * gainUpTo k := by
  rw [gainUpTo, Finset.prod_range_succ, mul_comm]
  rfl

theorem norm_idealFactor {d : ℤ} (hd : d = 1 ∨ d = -1) (i : ℕ) : ‖idealFactor d i‖ = stepGain i := by
  rw [Complex.norm_def, Complex.normSq_apply, stepGain]
  rcases hd with rfl | rfl <;> simp [idealFactor, two_mul, pow_add]

/-- asr differs from the exact quotient by at most 1 (R10). -/
theorem abs_asr_sub_le (v : ℤ) (k : ℕ) : |(asr v k : ℝ) - v * (2 : ℝ)⁻¹ ^ k| ≤ 1 := by
  have hfloor : asr v k = ⌊(v : ℝ) / (2 ^ k : ℕ)⌋ := by
    rw [asr_eq_div, Int.floor_div_natCast, Int.floor_intCast]
    norm_cast
  have hquot : (v : ℝ) * (2 : ℝ)⁻¹ ^ k = v / (2 ^ k : ℕ) := by
    rw [inv_pow, ← div_eq_mul_inv]
    norm_cast
  rw [hfloor, hquot, abs_sub_comm, abs_of_nonneg (Int.fract_nonneg _)]
  exact (Int.fract_lt_one _).le

/-- One iteration is its ideal step with an error of at most 2 (R60): the floor of one asr in each coordinate. -/
theorem norm_cordicStep_sub_le (m : Mode) (i : IterIndex) (t : Triple) :
    ‖(cordicStep m i t).point - idealFactor (direction m t.y t.z) i * t.point‖ ≤ 2 := by
  have hx := abs_asr_sub_le t.x i
  have hy := abs_asr_sub_le t.y i
  have hd : |(direction m t.y t.z : ℝ)| = 1 := by
    rcases direction_cases m t.y t.z with hd | hd <;> simp [hd]
  have herror : (cordicStep m i t).point - idealFactor (direction m t.y t.z) i * t.point =
      ⟨-(direction m t.y t.z * (asr t.y i - t.y * (2 : ℝ)⁻¹ ^ (i : ℕ))),
        direction m t.y t.z * (asr t.x i - t.x * (2 : ℝ)⁻¹ ^ (i : ℕ))⟩ := by
    apply Complex.ext <;> simp [cordicStep, idealFactor] <;> ring
  rw [herror]
  refine (Complex.norm_le_abs_re_add_abs_im _).trans ?_
  simp only [abs_neg, abs_mul, hd, one_mul]
  linarith

/-- A step multiplies the length by the gain of the iteration, to within 2. -/
theorem abs_norm_cordicStep_sub_le (m : Mode) (i : IterIndex) (t : Triple) :
    |‖(cordicStep m i t).point‖ - stepGain i * ‖t.point‖| ≤ 2 := by
  rw [← norm_idealFactor (direction_cases m t.y t.z), ← norm_mul]
  exact (abs_norm_sub_norm_le _ _).trans (norm_cordicStep_sub_le m i t)

/-- After k iterations the length is the initial one times their gain, to within 2 k times that gain. -/
theorem abs_norm_cordicUpTo_sub_le (m : Mode) (t : Triple) {k : ℕ} (hk : k ≤ 14) :
    |‖(cordicUpTo m t k).point‖ - gainUpTo k * ‖t.point‖| ≤ gainUpTo k * (2 * k) := by
  induction k with
  | zero => simp [gainUpTo]
  | succ k ih =>
    have hstep := abs_norm_cordicStep_sub_le m ⟨k, hk⟩ (cordicUpTo m t k)
    rw [← cordicUpTo_succ] at hstep
    have hbefore : |stepGain k * ‖(cordicUpTo m t k).point‖ - stepGain k * (gainUpTo k * ‖t.point‖)| ≤
        stepGain k * (gainUpTo k * (2 * k)) := by
      have hpos : 0 ≤ stepGain k := zero_le_one.trans (one_le_stepGain k)
      rw [← mul_sub, abs_mul, abs_of_nonneg hpos]
      exact mul_le_mul_of_nonneg_left (ih (by omega)) hpos
    have hgain := one_le_gainUpTo (k + 1)
    calc |‖(cordicUpTo m t (k + 1)).point‖ - gainUpTo (k + 1) * ‖t.point‖|
        ≤ 2 + stepGain k * (gainUpTo k * (2 * k)) := by
          rw [gainUpTo_succ, mul_assoc]
          exact (abs_sub_le _ _ _).trans (add_le_add hstep hbefore)
      _ = 2 + gainUpTo (k + 1) * (2 * k) := by rw [gainUpTo_succ, mul_assoc]
      _ ≤ gainUpTo (k + 1) * (2 * (k + 1 : ℕ)) := by push_cast; linarith

/-- After the whole run the length is A times the initial one, to within 28 A. -/
theorem abs_norm_cordicRun_sub_le (m : Mode) (t : Triple) :
    |‖(cordicRun m t).point‖ - cordicGain * ‖t.point‖| ≤ cordicGain * 28 := by
  have h := abs_norm_cordicUpTo_sub_le m t (le_refl 14)
  rw [gainUpTo_fourteen] at h
  norm_num at h
  exact h

/-- The initial vector of a command is no longer than the diagonal of the operand square (R60). -/
theorem norm_commandInit_le (c : Instr) : ‖(commandInit c).point‖ ≤ 46341 := by
  obtain ⟨hx, hy⟩ := commandInit_bounds c
  have hx' := sq_le_sq' (abs_le.mp hx).1 (abs_le.mp hx).2
  have hy' := sq_le_sq' (abs_le.mp hy).1 (abs_le.mp hy).2
  have hsum : (commandInit c).x * (commandInit c).x + (commandInit c).y * (commandInit c).y ≤ 46341 ^ 2 := by linarith
  rw [Complex.norm_def, Real.sqrt_le_iff, Complex.normSq_apply, point_re, point_im]
  exact ⟨by norm_num, by exact_mod_cast hsum⟩

/-- The run of a command ends with x at or below the bound of R60. -/
theorem cordicRun_commandInit_x_le (c : Instr) : (cordicRun (commandMode c) (commandInit c)).x ≤ 76400 := by
  have hrun := (abs_le.mp (abs_norm_cordicRun_sub_le (commandMode c) (commandInit c))).2
  have hinit := mul_le_mul_of_nonneg_left (norm_commandInit_le c) cordicGain_pos.le
  have hx := Complex.re_le_norm (cordicRun (commandMode c) (commandInit c)).point
  have hgain := cordicGain_bounds.2
  rw [point_re] at hx
  have hreal : ((cordicRun (commandMode c) (commandInit c)).x : ℝ) ≤ 76400 := by linarith
  exact_mod_cast hreal

end Sys2Proof.Machine
end

section
/-! The gain normalisation (42_atan2_sqrt.md R69): O19. -/

namespace Sys2Proof.Machine

/-- A vectoring step never decreases x: it adds asr of a y that is not negative or takes away asr of a negative one
(R69). -/
theorem le_cordicStep_vec_x (i : IterIndex) (t : Triple) : t.x ≤ (cordicStep .vec i t).x := by
  have hpos : (0 : ℤ) < 2 ^ (i : ℕ) := by positivity
  rcases lt_or_ge t.y 0 with h | h
  · have hasr : asr t.y i < 0 := by
      rw [asr_eq_div]
      exact Int.ediv_neg_of_neg_of_pos h hpos
    rw [cordicStep_vec_of_neg i t h]
    exact (le_sub_self_iff _).mpr hasr.le
  · have hasr : 0 ≤ asr t.y i := by
      rw [asr_eq_div]
      exact Int.ediv_nonneg h hpos.le
    rw [cordicStep_vec_of_nonneg i t h]
    exact le_add_of_nonneg_right hasr

/-- A vectoring run never decreases x (R69). -/
theorem le_cordicRun_vec_x (t : Triple) : t.x ≤ (cordicRun .vec t).x :=
  List.foldlRecOn iterationOrder _ (motive := fun u => t.x ≤ u.x) le_rfl
    fun u hu i _ => hu.trans (le_cordicStep_vec_x i u)

/-- The gain normalisation is the floor of n * 19898 / 32768 (R69). -/
theorem gainNorm_eq_div (n : ℤ) : gainNorm n = n * 19898 / 32768 := asr_eq_div _ _

/-- For every x up to the bound of R60 the magnitude is in 0..46,400 (R69). -/
theorem gainNorm_bounds {n : ℤ} (h₀ : 0 ≤ n) (h₁ : n ≤ 76400) : 0 ≤ gainNorm n ∧ gainNorm n ≤ 46400 := by
  rw [gainNorm_eq_div]
  omega

/-- The final x of ATAN2SQRT lies between x0 ≥ 0 and the bound of R60 (R69). -/
theorem atan2_x_bounds (y x : Word16) : 0 ≤ (atan2Init y x).x ∧
    (atan2Init y x).x ≤ (cordicRun .vec (atan2Init y x)).x ∧ (cordicRun .vec (atan2Init y x)).x ≤ 76400 :=
  ⟨atan2Init_x_nonneg y x, le_cordicRun_vec_x (atan2Init y x), cordicRun_commandInit_x_le (.atan2sqrt y x)⟩

/-- Settles O19: the range of the final x, which bounds the product and the magnitude, and the floor form. -/
theorem gainNormalisationFitsItsIntermediate : Obligations.GainNormalisationFitsItsIntermediate := by
  refine ⟨fun y x => ?_, gainNorm_eq_div, fun n => by ring, by rw [gainNorm_eq_div]; norm_num⟩
  obtain ⟨hinit, hmono, hle⟩ := atan2_x_bounds y x
  exact ⟨hinit, hmono, hle, by omega, by omega, gainNorm_bounds (hinit.trans hmono) hle⟩

end Sys2Proof.Machine
end

section
/-! The result of ATAN2SQRT (42_atan2_sqrt.md R70): O20. -/

namespace Sys2Proof.Machine

/-- A number in 32768..98303 appears in 16 bits as that number less 65536 (R70). -/
theorem wrap16_toInt_of_wrapped {n : ℤ} (h₁ : 32768 ≤ n) (h₂ : n ≤ 98303) : (wrap16 n).toInt = n - 65536 := by
  rw [wrap16_toInt, Int.bmod_def]
  omega

/-- The longest operand vector has the magnitude 46,339 (R70). -/
theorem gainNorm_of_longest : gainNorm (cordicRun .vec (atan2Init 0x8000#16 0x8000#16)).x = 46339 := by
  decide +kernel

/-- Settles O20: the magnitude lies in 0..46,400, so that it fits 16 bits or wraps once. -/
theorem magnitudeWrapsWithoutSaturation : Obligations.MagnitudeWrapsWithoutSaturation := by
  refine ⟨fun y x => ?_, gainNorm_of_longest⟩
  obtain ⟨hinit, hmono, hx⟩ := atan2_x_bounds y x
  obtain ⟨hnonneg, hle⟩ := gainNorm_bounds (hinit.trans hmono) hx
  exact ⟨rfl, fun h => wrap16_toInt_of_mem (by omega) h, fun h => wrap16_toInt_of_wrapped h (by omega)⟩

end Sys2Proof.Machine
end

section
/-! One edge at a time (43_pipeline_sequencer.md R72 to R76): O25, O30, O31, O32 and O33. Which step an edge performs is
said by the equations of `step`; what is added here is the command that the three ports stand for and the engine's
formulas with their constants written out. -/

namespace Sys2Proof.Machine

/-- With cmd_op = 0 the ports present SINCOS (R45, R48). -/
theorem decode_cmdWord_of_op_zero {p : Inputs} (h : p.cmdOp = 0#1) : decode p.cmdWord = .sincos p.cmdA p.cmdB := by
  rw [Inputs.cmdWord, decode_packCmd, if_pos h]

/-- With cmd_op = 1 the ports present ATAN2SQRT (R45, R48). -/
theorem decode_cmdWord_of_op_one {p : Inputs} (h : p.cmdOp = 1#1) :
    decode p.cmdWord = .atan2sqrt p.cmdA p.cmdB := by
  rw [Inputs.cmdWord, decode_packCmd, if_neg (by simp [h])]

/-- Settles O25: the equations of `step`, one for each case of R72; at LOAD the op bit says which command the ports
present. -/
theorem stepFollowsTheFiveCases : Obligations.StepFollowsTheFiveCases := by
  refine fun s => ⟨step_of_rst, fun hr hp hv => ⟨fun hop => ?sincos, fun hop => ?atan2sqrt⟩, step_of_hold, step_of_iter,
    step_of_finish⟩
  case sincos => rw [step_of_load hr hp hv, decode_cmdWord_of_op_zero hop]; rfl
  case atan2sqrt => rw [step_of_load hr hp hv, decode_cmdWord_of_op_one hop]; rfl

/-- The mode bit of the command on the ports is cmd_op (R18, R73). -/
theorem commandMode_cmdWord_toBit (p : Inputs) : (commandMode (decode p.cmdWord)).toBit = p.cmdOp := by
  rw [commandMode_decode, ofOp_toBit, Inputs.cmdWord, opField_packCmd]

/-- Settles O30: LOAD of the command on the ports, whose initial triple fits the 32-bit registers exactly. -/
theorem loadStepWritesTheInitialTriple : Obligations.LoadStepWritesTheInitialTriple := by
  intro s hr hp hv
  have htriple := loadStep_triple (decode s.sampled.cmdWord) s.advanceInputs
  refine ⟨_, step_of_load hr hp hv, commandMode_cmdWord_toBit s.sampled, fun hop => ?sincos, fun hop => ?atan2sqrt, rfl,
    rfl, rfl, rfl, rfl, rfl⟩
  case sincos => rw [htriple, decode_cmdWord_of_op_zero hop]; rfl
  case atan2sqrt => rw [htriple, decode_cmdWord_of_op_one hop]; rfl

/-- Settles O31, by induction on the number of quiet edges: each of them is a HOLD step. -/
theorem holdKeepsEveryRegister : Obligations.HoldKeepsEveryRegister := by
  intro s n hp hq
  induction n generalizing s with
  | zero => rfl
  | succ n ih =>
    obtain ⟨hr, hv⟩ := quietFor_sampled hq
    calc s.afterEdges (n + 1)
        = s.advanceInputs.afterEdges n := afterEdges_succ n (step_of_hold hr hp hv)
      _ = .next { s with inputs := s.inputs.tail.drop n } := ih s.advanceInputs hp (quietFor_advance hq)
      _ = .next { s with inputs := s.inputs.drop (n + 1) } := by rw [List.drop_tail]

/-- The direction by the signs of z and y (R56, R57). -/
theorem direction_eq_ite (m : Mode) (y : ℤ) (z : Word16) :
    direction m y z =
      if m = .rot then (if 0 ≤ z.toInt then 1 else -1) else (if 0 ≤ y then -1 else 1) := by
  cases m with
  | rot => rfl
  | vec => rcases lt_or_ge y 0 with h | h <;> simp [direction, sgn, h, not_le.mpr]

/-- The table's words as the integers of the step formula (R31, R81). -/
theorem atan_toNat_cast (i : IterIndex) :
    ((atan i).toNat : ℤ) = [8192, 4836, 2555, 1297, 651, 326, 163, 81, 41, 20, 10, 5, 3, 1].getD i 0 := by
  rw [atan_toNat]
  exact (List.getD_map (f := Nat.cast) ..).symm

/-- One iteration with the direction, the shifts and the table written out (R55 to R58). -/
theorem cordicStep_eq (m : Mode) (i : IterIndex) (t : Triple) :
    let d : ℤ := if m = .rot then (if 0 ≤ t.z.toInt then 1 else -1) else (if 0 ≤ t.y then -1 else 1)
    let table : List ℤ := [8192, 4836, 2555, 1297, 651, 326, 163, 81, 41, 20, 10, 5, 3, 1]
    cordicStep m i t = ⟨t.x - d * (t.y / 2 ^ (i : ℕ)), t.y + d * (t.x / 2 ^ (i : ℕ)),
      BitVec.ofInt 16 (t.z.toInt - d * table.getD i 0)⟩ := by
  simp only [cordicStep, direction_eq_ite, asr_eq_div, atan_toNat_cast, wrap16]

/-- Settles O32: the ITER step writes one iteration of the engine, and its index and phase by whether it is the last. -/
theorem iterStepPerformsOneIteration : Obligations.IterStepPerformsOneIteration := by
  intro s hr hp d table
  have hnext := cordicStep_eq s.mode s.i s.triple
  refine ⟨_, step_of_iter hr hp, ?x, ?y, ?z, fun hi => ?last, fun hi => ?earlier, ?frame⟩
  case x => rw [iterStep_x]; exact congrArg (fun t => BitVec.ofInt 32 t.x) hnext
  case y => rw [iterStep_y]; exact congrArg (fun t => BitVec.ofInt 32 t.y) hnext
  case z => rw [iterStep_z]; exact congrArg Triple.z hnext
  case last => simp [hi]
  case earlier => simp [hi, hp, iterIndex_succ_val hi]
  case frame => simp

/-- Settles O33: the result selection of each mode; no other register is written. -/
theorem finishStepWritesTheResponse : Obligations.FinishStepWritesTheResponse := by
  intro s hr hp
  refine ⟨_, step_of_finish hr hp, fun hm => ?rot, fun hm => ?vec, rfl, rfl, rfl, rfl, rfl, rfl, rfl, rfl⟩
  case rot => simp [hm, selectResult, sincosResult, wrap16, State.triple]
  case vec => simp [hm, selectResult, atan2Result, gainNorm_eq_div, wrap16, State.triple]

end Sys2Proof.Machine
end

section
/-! The 32-bit registers hold the unbounded integers of a command's run (40_cordic_engine.md R60): before and after every
iteration the length of (x, y) is at most 46,341 * A and the 28 * A of the floors. -/

namespace Sys2Proof.Machine

theorem gainUpTo_monotone : Monotone gainUpTo :=
  monotone_nat_of_le_succ fun k => by
    rw [gainUpTo_succ]
    exact le_mul_of_one_le_left (zero_le_one.trans (one_le_gainUpTo k)) (one_le_stepGain k)

theorem gainUpTo_le_cordicGain {k : ℕ} (hk : k ≤ 14) : gainUpTo k ≤ cordicGain :=
  gainUpTo_fourteen ▸ gainUpTo_monotone hk

/-- At no point of a command's run is (x, y) longer than the bound of R60. -/
theorem norm_cordicUpTo_commandInit_le (c : Instr) {k : ℕ} (hk : k ≤ 14) :
    ‖(cordicUpTo (commandMode c) (commandInit c) k).point‖ ≤ 76400 := by
  have hrun := (abs_le.mp (abs_norm_cordicUpTo_sub_le (commandMode c) (commandInit c) hk)).2
  have hinit := norm_commandInit_le c
  have hk' : (k : ℝ) ≤ 14 := by exact_mod_cast hk
  calc ‖(cordicUpTo (commandMode c) (commandInit c) k).point‖
      ≤ gainUpTo k * (‖(commandInit c).point‖ + 2 * k) := by linarith
    _ ≤ cordicGain * (46341 + 2 * 14) := by
        gcongr
        · exact cordicGain_pos.le
        · exact gainUpTo_le_cordicGain hk
    _ ≤ 76400 := by linarith [cordicGain_bounds.2]

/-- At no point of a command's run is a coordinate above the bound of R60. -/
theorem cordicUpTo_commandInit_coordinatesWithin (c : Instr) {k : ℕ} (hk : k ≤ 14) :
    (cordicUpTo (commandMode c) (commandInit c) k).CoordinatesWithin (76400, 76400) := by
  have hnorm := norm_cordicUpTo_commandInit_le c hk
  have hx := (Complex.abs_re_le_norm _).trans hnorm
  have hy := (Complex.abs_im_le_norm _).trans hnorm
  rw [point_re] at hx
  rw [point_im] at hy
  exact ⟨by exact_mod_cast hx, by exact_mod_cast hy⟩

/-- The ITER step takes the partial result of a command's run to the next one (R75). -/
theorem iterStep_holdsIterate {s : State} {c : Instr} (h : s.holdsIterate c s.i) :
    (iterStep s).holdsIterate c (s.i + 1) := by
  obtain ⟨hmode, htriple⟩ := h
  have hnext : cordicStep s.mode s.i s.triple = cordicUpTo (commandMode c) (commandInit c) (s.i + 1) := by
    rw [hmode, htriple, cordicUpTo_succ]
  obtain ⟨hx, hy⟩ := cordicUpTo_commandInit_coordinatesWithin c (Nat.succ_le_of_lt s.i.isLt)
  have hwritten := iterStep_triple s (hnext ▸ hx.trans (by norm_num)) (hnext ▸ hy.trans (by norm_num))
  exact ⟨(iterStep_mode s).trans hmode, hwritten.trans hnext⟩

/-- The response to a command is the result its mode selects from the final triple of its run (R66, R71). -/
theorem commandResponse_eq_selectResult (c : Instr) :
    commandResponse c = selectResult (commandMode c) (cordicRun (commandMode c) (commandInit c)) := by
  cases c <;> rfl

/-- After all 14 iterations of a command the FINISH step writes the command's response (R76). -/
theorem finishStep_response_of_holdsIterate {s : State} {c : Instr} (h : s.holdsIterate c 14) :
    (finishStep s).response = commandResponse c := by
  obtain ⟨hmode, htriple⟩ := h
  rw [finishStep_response, hmode, htriple, commandResponse_eq_selectResult, cordicRun_eq_upTo]

end Sys2Proof.Machine
end

section
/-! A command in flight (43_pipeline_sequencer.md R77, R78): O36 and O37. With LOAD as edge 0, `InFlight` says what the
registers hold after edge k for k up to 14, and `Answered` what they hold after edge 15. -/

namespace Sys2Proof.Machine

/-- The registers after edge `k` of command `c`, counted from its LOAD at edge 0: the first `k` iterations are done and
the response before LOAD still shows (R77, R98). -/
structure State.InFlight (s : State) (c : Instr) (k : ℕ) (old : Response) : Prop where
  phase : s.phase = if k < 14 then .iter else .finish
  index : (s.i : ℕ) = min k 13
  rspValid : s.rspValid = false
  response : s.response = old
  iterate : s.holdsIterate c k

/-- The registers after the FINISH step of command `c` (R76). -/
structure State.Answered (s : State) (c : Instr) : Prop where
  phase : s.phase = .idle
  index : s.i = 13
  rspValid : s.rspValid = true
  response : s.response = commandResponse c
  iterate : s.holdsIterate c 14

theorem State.InFlight.advanceInputs {s : State} {c : Instr} {k : ℕ} {old : Response} (h : s.InFlight c k old) :
    s.advanceInputs.InFlight c k old :=
  ⟨h.phase, h.index, h.rspValid, h.response, h.iterate⟩

/-- A command in flight keeps the block busy (R20). -/
theorem State.InFlight.phase_ne_idle {s : State} {c : Instr} {k : ℕ} {old : Response} (h : s.InFlight c k old) :
    s.phase ≠ .idle := by
  rw [h.phase]
  split <;> simp

/-- After its LOAD step a command is in flight with no iteration done (R73). -/
theorem loadStep_inFlight (c : Instr) (s : State) :
    (loadStep (commandMode c) (commandInit c) s).InFlight c 0 s.response where
  phase := rfl
  index := rfl
  rspValid := rfl
  response := rfl
  iterate := ⟨rfl, loadStep_triple c s⟩

/-- The ITER step does one more iteration of the command in flight (R75). -/
theorem iterStep_inFlight {s : State} {c : Instr} {k : ℕ} {old : Response} (h : s.InFlight c k old) (hk : k < 14) :
    (iterStep s).InFlight c (k + 1) old := by
  have hp : s.phase = .iter := h.phase.trans (if_pos hk)
  have hik : (s.i : ℕ) = k := h.index.trans (by omega)
  have hlast : s.i = 13 ↔ k = 13 := by rw [← hik]; exact Fin.ext_iff
  refine ⟨?phase, ?index, (iterStep_rspValid s).trans h.rspValid, ?response, ?iterate⟩
  case phase =>
    have hmore : k + 1 < 14 ↔ ¬s.i = 13 := by rw [hlast]; omega
    simp only [iterStep_phase, hp, hmore, ite_not]
  case index =>
    by_cases hi : s.i = 13
    · rw [iterStep_i, if_pos hi, hik, hlast.mp hi]; rfl
    · have hearlier : k ≠ 13 := mt hlast.mpr hi
      rw [iterStep_i, if_neg hi, iterIndex_succ_val hi]
      omega
  case response => exact (congrArg₂ Response.mk (iterStep_r0 s) (iterStep_r1 s)).trans h.response
  case iterate => exact hik ▸ iterStep_holdsIterate (hik.symm ▸ h.iterate)

/-- The FINISH step answers the command in flight (R76). -/
theorem finishStep_answered {s : State} {c : Instr} {old : Response} (h : s.InFlight c 14 old) :
    (finishStep s).Answered c where
  phase := rfl
  index := Fin.ext h.index
  rspValid := rfl
  response := finishStep_response_of_holdsIterate h.iterate
  iterate := h.iterate

/-- What is left of a stretch without reset after its first `m` edges. -/
theorem noResetFor_of_inputs_eq_drop {s t : State} {m n : ℕ} (h : s.noResetFor (m + n))
    (ht : t.inputs = s.inputs.drop m) : t.noResetFor n := by
  obtain ⟨hlen, hrst⟩ := h
  constructor
  · rw [ht, List.length_drop]
    omega
  · intro p hp
    rw [ht, List.take_drop] at hp
    exact hrst p (List.mem_of_mem_drop hp)

/-- A run of n + 1 edges is one step and a run of n edges. -/
theorem exists_step_of_afterEdges_succ {s t : State} {n : ℕ} (h : s.afterEdges (n + 1) = .next t) :
    ∃ v, step s = .next v ∧ v.afterEdges n = .next t := by
  simp only [State.afterEdges, Host.Core.run] at h
  split at h
  · next v hv => exact ⟨v, hv, h⟩
  · cases h
  · cases h

/-- A run of n edges and one step are a run of n + 1 edges. -/
theorem afterEdges_succ_of_last {s t u : State} {n : ℕ} (h : s.afterEdges n = .next t) (hstep : step t = .next u) :
    s.afterEdges (n + 1) = .next u := by
  induction n generalizing s with
  | zero => cases h; exact afterEdges_succ 0 hstep
  | succ n ih =>
    obtain ⟨v, hv, hrun⟩ := exists_step_of_afterEdges_succ h
    exact (afterEdges_succ (n + 1) hv).trans (ih hrun)

/-- Without reset, edge k for k up to 14 leaves the command in flight with k iterations done, whatever else is on the
ports (R77). -/
theorem afterEdges_of_loaded {s : State} {c : Instr} {old : Response} (h : s.InFlight c 0 old) {k : ℕ} (hk : k ≤ 14)
    (hr : s.noResetFor k) :
    ∃ t, s.afterEdges k = .next t ∧ t.InFlight c k old ∧ t.inputs = s.inputs.drop k := by
  induction k with
  | zero => exact ⟨s, rfl, h, rfl⟩
  | succ k ih =>
    obtain ⟨t, hrun, hflight, hinputs⟩ := ih (by omega) (noResetFor_mono hr k.le_succ)
    have hrst := noResetFor_sampled (noResetFor_of_inputs_eq_drop hr hinputs)
    have hp : t.phase = .iter := hflight.phase.trans (if_pos hk)
    refine ⟨iterStep t.advanceInputs, afterEdges_succ_of_last hrun (step_of_iter hrst hp), ?_, ?_⟩
    · exact iterStep_inFlight hflight.advanceInputs hk
    · rw [iterStep_inputs, advanceInputs_inputs, hinputs, List.tail_drop]

/-- Without reset, edge 15 leaves the command answered (R77, R78). -/
theorem afterEdges_fifteen_of_loaded {s : State} {c : Instr} {old : Response} (h : s.InFlight c 0 old)
    (hr : s.noResetFor 15) :
    ∃ u, s.afterEdges 15 = .next u ∧ u.Answered c ∧ u.inputs = s.inputs.drop 15 := by
  obtain ⟨t, hrun, hflight, hinputs⟩ := afterEdges_of_loaded h le_rfl (noResetFor_mono hr (by norm_num))
  have hrst := noResetFor_sampled (noResetFor_of_inputs_eq_drop (m := 14) (n := 1) hr hinputs)
  refine ⟨finishStep t.advanceInputs, afterEdges_succ_of_last hrun (step_of_finish hrst hflight.phase), ?_, ?_⟩
  · exact finishStep_answered hflight.advanceInputs
  · rw [finishStep_inputs, advanceInputs_inputs, hinputs, List.tail_drop]

/-- cmd_ready = 0 exactly while the block is busy (R20). -/
theorem cmdReady_eq_false_iff {s : State} : s.cmdReady = false ↔ s.phase ≠ .idle := by
  rw [← Bool.not_eq_true, cmdReady_iff]

/-- busy is the negation of cmd_ready (R20). -/
theorem busy_eq_not_cmdReady (s : State) : s.busy = !s.cmdReady := rfl

/-- Settles O36: the state after edge k is that of the command in flight, and the state after edge 15 is that of the
answered command. -/
theorem blockIsBusyForFifteenEdges : Obligations.BlockIsBusyForFifteenEdges := by
  intro s c hacc hr
  have hloaded := loadStep_inFlight c s.advanceInputs
  refine ⟨fun k hk => ?_, ?_⟩
  · obtain ⟨t, hrun, hflight, -⟩ :=
      afterEdges_of_loaded hloaded (Nat.le_of_lt_succ hk) (noResetFor_mono (n := 15) hr hk.le)
    have hready : t.cmdReady = false := cmdReady_eq_false_iff.mpr hflight.phase_ne_idle
    refine ⟨t, (afterEdges_succ k (step_of_accepts hacc)).trans hrun, fun hlt => ⟨?iter, ?index⟩, fun heq => ?finish,
      (busy_eq_not_cmdReady t).trans (by rw [hready]; rfl), hready, hflight.rspValid, hflight.response⟩
    case iter => exact hflight.phase.trans (if_pos hlt)
    case index => exact hflight.index.trans (min_eq_left (Nat.le_of_lt_succ hlt))
    case finish => exact hflight.phase.trans (if_neg heq.not_lt)
  · obtain ⟨u, hrun, hans, -⟩ := afterEdges_fifteen_of_loaded hloaded hr
    have hready : u.cmdReady = true := (cmdReady_iff u).mpr hans.phase
    exact ⟨u, (afterEdges_succ 15 (step_of_accepts hacc)).trans hrun, hans.rspValid, hready,
      (busy_eq_not_cmdReady u).trans (by rw [hready]; rfl)⟩

/-- Settles O37: the answer of the run is the response of the accepted command, which is the one on the ports. -/
theorem machineComputesThePureFunctions : Obligations.MachineComputesThePureFunctions := by
  intro s c hacc hr
  obtain ⟨u, hrun, hans, -⟩ := afterEdges_fifteen_of_loaded (loadStep_inFlight c s.advanceInputs) hr
  have hc : decode s.sampled.cmdWord = c := by
    obtain ⟨-, -, -, hw⟩ := hacc
    exact decode_of_eq_encode hw
  refine ⟨u, (afterEdges_succ 15 (step_of_accepts hacc)).trans hrun, hans.rspValid, hans.response, fun hop => ?sincos,
    fun hop => ?atan2sqrt⟩
  case sincos => rw [hans.response, ← hc, decode_cmdWord_of_op_zero hop]; rfl
  case atan2sqrt => rw [hans.response, ← hc, decode_cmdWord_of_op_one hop]; rfl

end Sys2Proof.Machine
end

section
/-! Commands offered to a busy block (70_reset_and_hazards.md R97): O38. A held command is not accepted while the block is
busy and is accepted right after FINISH; and an answered command fixes every register, so nothing offered in between
can have left a trace. -/

namespace Sys2Proof.Machine

/-- The ports that offer the word of a command carry that word (R45). -/
theorem offerWord_cmdWord (c : Instr) : (Inputs.offerWord (encode c)).cmdWord = encode c := by
  cases c <;> simp [encode, Inputs.offerWord, Inputs.cmdWord]

/-- A block in phase IDLE accepts the command that the host offers at the next edge (R49). -/
theorem accepts_of_offered {s : State} {c : Instr} {rest : List Inputs} (hp : s.phase = .idle)
    (h : s.inputs = Inputs.offerWord (encode c) :: rest) : s.accepts c := by
  rw [State.accepts, sampled_of_cons h]
  exact ⟨hp, rfl, rfl, offerWord_cmdWord c⟩

/-- While cmd_ready = 0 no command is accepted (R49). -/
theorem not_accepts_of_not_ready {s : State} (c : Instr) (h : s.cmdReady = false) : ¬s.accepts c :=
  fun ⟨hp, _⟩ => cmdReady_eq_false_iff.mp h hp

/-- Listed inputs with rst = 0 are a stretch without reset. -/
theorem noResetFor_of_inputs_eq_append {s : State} {l rest : List Inputs} (h : s.inputs = l ++ rest)
    (hr : ∀ q ∈ l, q.rst = false) : s.noResetFor l.length := by
  constructor
  · simp [h]
  · simpa [h] using hr

/-- The working registers are determined by the triple of integers they hold. -/
theorem registers_eq_of_triple_eq {s t : State} (h : s.triple = t.triple) : s.x = t.x ∧ s.y = t.y ∧ s.z = t.z := by
  simpa [State.triple, BitVec.toInt_inj] using h

/-- An answered command fixes every register: the state is determined by the command and the inputs still to come
(R26). -/
theorem State.Answered.eq_of_inputs_eq {s t : State} {c : Instr} (hs : s.Answered c) (ht : t.Answered c)
    (h : s.inputs = t.inputs) : s = t := by
  obtain ⟨hp, hi, hv, hresp, hm, htriple⟩ := hs
  obtain ⟨hp', hi', hv', hresp', hm', htriple'⟩ := ht
  obtain ⟨hx, hy, hz⟩ := registers_eq_of_triple_eq (htriple.trans htriple'.symm)
  obtain ⟨hr0, hr1⟩ := Response.mk.inj (hresp.trans hresp'.symm)
  cases s
  cases t
  simp_all

/-- Sixteen edges from the one that accepts a command, without reset, leave the command answered and the inputs after
them (R77). -/
theorem afterEdges_sixteen_of_accepts {s : State} {c : Instr} (h : s.accepts c) (hr : s.advanceInputs.noResetFor 15) :
    ∃ u, s.afterEdges 16 = .next u ∧ u.Answered c ∧ u.inputs = s.inputs.tail.drop 15 := by
  obtain ⟨u, hrun, hu⟩ := afterEdges_fifteen_of_loaded (loadStep_inFlight c s.advanceInputs) hr
  exact ⟨u, (afterEdges_succ 15 (step_of_accepts h)).trans hrun, hu⟩

/-- The state after edge 15 of an accepted command does not depend on what else was offered meanwhile (R97). -/
theorem afterEdges_sixteen_eq_of_offers {s s' : State} {c : Instr} {l l' rest : List Inputs} (hs : s.accepts c)
    (hs' : s'.accepts c) (hl : l.length = 15) (hl' : l'.length = 15) (hr : ∀ q ∈ l ++ l', q.rst = false)
    (hin : s.inputs.tail = l ++ rest) (hin' : s'.inputs.tail = l' ++ rest) : s.afterEdges 16 = s'.afterEdges 16 := by
  have hfree : s.advanceInputs.noResetFor 15 :=
    hl ▸ noResetFor_of_inputs_eq_append hin fun q hq => hr q (List.mem_append_left _ hq)
  have hfree' : s'.advanceInputs.noResetFor 15 :=
    hl' ▸ noResetFor_of_inputs_eq_append hin' fun q hq => hr q (List.mem_append_right _ hq)
  obtain ⟨u, hrun, hans, hu⟩ := afterEdges_sixteen_of_accepts hs hfree
  obtain ⟨u', hrun', hans', hu'⟩ := afterEdges_sixteen_of_accepts hs' hfree'
  have hrest : u.inputs = rest := by rw [hu, hin, List.drop_left' hl]
  have hrest' : u'.inputs = rest := by rw [hu', hin', List.drop_left' hl']
  rw [hrun, hrun', hans.eq_of_inputs_eq hans' (hrest.trans hrest'.symm)]

/-- Settles O38: by O36 the held command meets a busy block at edges 1..15; after edge 15 the first command is answered
and the held one is still on the ports. The second part is `afterEdges_sixteen_eq_of_offers`. -/
theorem heldCommandIsAcceptedWhenReady : Obligations.HeldCommandIsAcceptedWhenReady := by
  refine ⟨fun s c c' rest hacc hheld => ?held, fun s c p l l' rest hl hl' hr hacc => ?withdrawn⟩
  case held =>
    have hfree : s.advanceInputs.noResetFor 15 :=
      noResetFor_mono (noResetFor_of_inputs_eq_append hheld fun q hq => by rw [List.eq_of_mem_replicate hq]; rfl)
        (by simp)
    constructor
    · intro k hk
      obtain ⟨v, hrun, -, -, -, hready, -⟩ := (blockIsBusyForFifteenEdges s c hacc hfree).1 k hk
      exact ⟨v, hrun, hready, not_accepts_of_not_ready c' hready⟩
    · obtain ⟨t, hrun, hans, hinputs⟩ := afterEdges_sixteen_of_accepts hacc hfree
      have hnext : t.accepts c' := accepts_of_offered (rest := rest) hans.phase (by rw [hinputs, hheld]; rfl)
      exact ⟨t, _, hrun, hans.response, (cmdReady_iff t).mpr hans.phase, hnext, step_of_accepts hnext, rfl,
        loadStep_triple c' t.advanceInputs, rfl, rfl⟩
  case withdrawn => exact afterEdges_sixteen_eq_of_offers (c := c) hacc hacc hl hl' hr rfl rfl

end Sys2Proof.Machine
end

section
/-! Reset (70_reset_and_hazards.md R94, R95): O44 and O42. -/

namespace Sys2Proof.Machine

/-- No step but FINISH sets rsp_valid (R19). -/
theorem step_rspValid_eq_false {s : State} (hv : s.rspValid = false) (hp : s.phase ≠ .finish) :
    ∃ t, step s = .next t ∧ t.rspValid = false := by
  cases hr : s.sampled.rst with
  | true => exact ⟨_, step_of_rst hr, rfl⟩
  | false =>
    cases hphase : s.phase with
    | idle =>
      cases hc : s.sampled.cmdValid with
      | true => exact ⟨_, step_of_load hr hphase hc, rfl⟩
      | false => exact ⟨_, step_of_hold hr hphase hc, hv⟩
    | iter => exact ⟨_, step_of_iter hr hphase, (iterStep_rspValid _).trans hv⟩
    | finish => exact absurd hphase hp

/-- rsp_valid stays 0 for as long as no edge starts in phase FINISH (R19, R95). -/
theorem afterEdges_rspValid_eq_false {s : State} {n : ℕ} (hv : s.rspValid = false)
    (hp : ∀ k < n, ∀ t, s.afterEdges k = .next t → t.phase ≠ .finish) :
    ∃ t, s.afterEdges n = .next t ∧ t.rspValid = false := by
  induction n with
  | zero => exact ⟨s, rfl, hv⟩
  | succ n ih =>
    obtain ⟨t, hrun, ht⟩ := ih fun k hk => hp k (hk.trans n.lt_succ_self)
    obtain ⟨u, hstep, hu⟩ := step_rspValid_eq_false ht (hp n n.lt_succ_self t hrun)
    exact ⟨u, afterEdges_succ_of_last hrun hstep, hu⟩

/-- Settles O44: the reset step clears rsp_valid, no step before a FINISH sets it again, and quiet edges hold the reset
values (O31). -/
theorem resetDiscardsTheCommandInFlight : Obligations.ResetDiscardsTheCommandInFlight := by
  intro s n hr
  have hrun (k : ℕ) : s.afterEdges (k + 1) = (resetStep s.advanceInputs).afterEdges k :=
    afterEdges_succ k (step_of_rst hr)
  refine ⟨fun hp => ?flag, fun hq => ?quiet⟩
  case flag =>
    rw [hrun]
    exact afterEdges_rspValid_eq_false rfl fun k hk t ht => hp (k + 1) (by omega) hk t ((hrun k).trans ht)
  case quiet => exact ⟨_, (hrun n).trans (holdKeepsEveryRegister _ n rfl hq), rfl⟩

/-- Settles O42: the reset values are those of `resetStep`, and phase IDLE lets the next edge load a command (O30). -/
theorem resetStepClearsEveryRegister : Obligations.ResetStepClearsEveryRegister := by
  intro s hr
  refine ⟨_, step_of_rst hr, rfl, rfl, rfl, rfl, rfl, rfl, rfl, rfl, rfl, rfl, rfl, fun hr' hv => ?load⟩
  case load =>
    obtain ⟨u, hstep, hmode, -, -, -, hphase, -⟩ := loadStepWritesTheInitialTriple _ hr' rfl hv
    exact ⟨u, hstep, hphase, hmode⟩

end Sys2Proof.Machine
end

section
/-! Decoding and encoding are inverse to one another (30_encoding.md R45, R48, R50): O1. -/

namespace Sys2Proof

/-- A command word is made of its three fields (R45). -/
theorem packCmd_fields (w : CmdWord) : packCmd (opField w) (bField w) (aField w) = w := by
  apply BitVec.eq_of_getLsbD_eq
  intro k hk
  rw [getLsbD_packCmd]
  simp only [opField, bField, aField, BitVec.getLsbD_extractLsb']
  split_ifs with ha hb
  · simp [ha]
  · have hb' : k - 16 < 16 := by omega
    simp [hb', Nat.add_sub_of_le (not_lt.mp ha)]
  · have hop : k - 32 < 1 := by omega
    simp [hop, Nat.add_sub_of_le (not_lt.mp hb)]

/-- The encoder undoes the decoder: either row of the opcode map puts back the three fields of the word (R48). -/
theorem encode_decode (w : CmdWord) : encode (decode w) = w := by
  rcases BitVec.eq_zero_or_eq_one (opField w) with hop | hop
  · calc encode (decode w) = packCmd 0#1 (bField w) (aField w) := by simp [decode, hop, encode]
      _ = w := by rw [← hop, packCmd_fields]
  · calc encode (decode w) = packCmd 1#1 (bField w) (aField w) := by simp [decode, hop, encode]
      _ = w := by rw [← hop, packCmd_fields]

/-- Settles O1: the decoder reads back what the encoder packed, and the fields of a word make up the word. -/
theorem decodeAndEncodeAreInverse : Obligations.DecodeAndEncodeAreInverse :=
  ⟨fun _ _ => Machine.decode_of_eq_encode rfl, fun w => ⟨(decode w).wellFormed_eq_true, encode_decode w⟩⟩

end Sys2Proof
end

section
/-! Words, operands and the table with their values (20_memory.md R28, R32; 30_encoding.md R45, R46, R52): O2, O5, O6
and O8. -/

namespace Sys2Proof.Machine

/-- Settles O2: the four words are evaluated. -/
theorem writtenOutWordsDecode : Obligations.WrittenOutWordsDecode := by
  unfold Obligations.WrittenOutWordsDecode
  decide

/-- Settles O5: r0 lies below bit 16 of the appended word, and r1 from there on. -/
theorem responseWordHoldsBothResults : Obligations.ResponseWordHoldsBothResults := by
  refine fun r => ⟨?low, ?high⟩
  case low => simp [Response.word, BitVec.extractLsb'_append_eq_of_add_le (xlo := r.r0) (xhi := r.r1)]
  case high => simp [Response.word, BitVec.extractLsb'_append_eq_of_le (xlo := r.r0) (xhi := r.r1)]

/-- Settles O6: the assembler's command and the encoder's fields, by their definitions. -/
theorem assemblerPacksTheCommandWord : Obligations.AssemblerPacksTheCommandWord :=
  fun _ _ _ _ => ⟨rfl, rfl, rfl, rfl⟩

/-- The table read gives the entry at each of the 14 addresses (R36). -/
theorem memRead_table (i : IterIndex) : memRead i 2 = some (atan i) :=
  (if_pos rfl).trans (List.getElem?_eq_getElem i.isLt)

/-- Beyond the table, and in another width, there is nothing to read (R28). -/
theorem memRead_eq_none {a n : ℕ} (h : 14 ≤ a ∨ n ≠ 2) : memRead a n = none := by
  rcases h with ha | hn
  · simp [memRead, List.getElem?_eq_none (show atanTable.length ≤ a from ha)]
  · simp [memRead, hn]

/-- Settles O8: the 14 entries are compared and added, and `memRead` is the entry or nothing. -/
theorem tableDecreasesAndSumsToItsReach : Obligations.TableDecreasesAndSumsToItsReach :=
  ⟨by decide, by decide, by decide, memRead_table, fun _ _ => memRead_eq_none⟩

end Sys2Proof.Machine
end

section
/-! Single steps (43_pipeline_sequencer.md R72 to R76; notes, log 1 and log 2): O26, O27, O28, O29 and O34. -/

namespace Sys2Proof.Machine

/-- Settles O26: in each case of `step` the answer is a next state, for a presented command has one too. -/
theorem stepAlwaysAnswersANextState : Obligations.StepAlwaysAnswersANextState := by
  intro s
  unfold step
  split
  · exact ⟨_, rfl⟩
  · split
    · exact ⟨_, exec_eq _ _⟩
    · exact ⟨_, rfl⟩

/-- Without reset, a presented command is decoded and run (R72). -/
theorem step_of_presented {s : State} (hr : s.sampled.rst = false) (hv : s.sampled.cmdValid = true) :
    step s = exec (decode s.sampled.cmdWord) s.advanceInputs := by
  simp [step, hr, hv]

/-- Settles O27: the step at an edge with a command presented. -/
theorem stepRunsTheDecodedCommand : Obligations.StepRunsTheDecodedCommand := by
  rintro s _ hr hv rfl
  exact ⟨Instr.wellFormed_eq_true _, step_of_presented hr hv⟩

/-- Where no input is listed, there is none to use up. -/
theorem advanceInputs_of_nil {s : State} (h : s.inputs = []) : s.advanceInputs = s := by
  cases s
  cases h
  rfl

/-- Settles O28: idle ports present no command, and the step is the block's own by phase. -/
theorem portsAreIdleWhenNothingIsListed : Obligations.PortsAreIdleWhenNothingIsListed := by
  intro s h
  have hr : s.sampled.rst = false := by rw [sampled_of_nil h]; rfl
  have hv : s.sampled.cmdValid = false := by rw [sampled_of_nil h]; rfl
  have hown := step_of_not_accepting hr (.inr hv)
  rw [advanceInputs_of_nil h] at hown
  exact ⟨fun hp => by rw [hown, ownStep_idle hp]; rfl, fun hp => by rw [hown, ownStep_iter hp],
    fun hp => by rw [hown, ownStep_finish hp]⟩

/-- The ports that offer a word carry that word (R45). -/
theorem cmdWord_offerWord (w : CmdWord) : (Inputs.offerWord w).cmdWord = w := packCmd_fields w

/-- A table word that decodes to a command is a command word of that command (log 8). -/
theorem decode_of_decodeTableWord {nbits w : ℕ} {i : Instr} (h : decodeTableWord nbits w = some i) :
    decode (BitVec.ofNat 33 (w % 2 ^ nbits)) = i := by
  unfold decodeTableWord decodeNumber at h
  split_ifs at h
  exact Option.some.inj h

/-- Settles O29: the ports of the next edge offer the table word, which the step decodes and runs. -/
theorem fetchWordIsRunByTheNextStep : Obligations.FetchWordIsRunByTheNextStep := by
  intro s nbits w i h
  have hrun := step_of_presented (s := s.withFetchWord nbits w) rfl rfl
  have hword : (s.withFetchWord nbits w).sampled.cmdWord = BitVec.ofNat 33 (w % 2 ^ nbits) := cmdWord_offerWord _
  rw [hword, decode_of_decodeTableWord h] at hrun
  exact hrun

/-- Settles O34: a presented command is LOAD in phase IDLE and the block's own step in the other phases, and each of
these leaves its registers alone. -/
theorem presentedCommandFrame : Obligations.PresentedCommandFrame := by
  intro c s t h
  cases hp : s.phase with
  | idle =>
    rw [exec_idle c hp] at h
    cases h
    simp
  | iter =>
    rw [exec_busy c (by simp [hp]), ownStep_iter hp] at h
    cases h
    simp
  | finish =>
    rw [exec_busy c (by simp [hp]), ownStep_finish hp] at h
    cases h
    simp

end Sys2Proof.Machine
end

section
/-! The invariant of Safety.lean (10_state.md R17, R19, R25 to R27): O43, O45 and O46. -/

namespace Sys2Proof.Machine

/-- Settles O43: the values of `State.reset`, by its definition. -/
theorem resetStateHoldsTheResetValues : Obligations.ResetStateHoldsTheResetValues :=
  ⟨rfl, rfl, rfl, rfl, rfl, rfl, rfl, rfl, rfl⟩

/-- The invariant in phase IDLE without a valid response. -/
theorem traceable_idle_iff {s : State} (hp : s.phase = .idle) (hv : s.rspValid = false) :
    s.Traceable ↔ s.registersAtReset := by
  simp [State.Traceable, hp, hv]

/-- The invariant in phase IDLE with a valid response. -/
theorem traceable_answered_iff {s : State} (hp : s.phase = .idle) (hv : s.rspValid = true) :
    s.Traceable ↔ ∃ c : Instr, s.holdsIterate c 14 ∧ s.i = 13 ∧ s.response = commandResponse c := by
  simp [State.Traceable, hp, hv]

/-- The invariant in phase ITER. -/
theorem traceable_iter_iff {s : State} (hp : s.phase = .iter) :
    s.Traceable ↔ s.rspValid = false ∧ ∃ c : Instr, s.holdsIterate c s.i := by
  simp [State.Traceable, hp]

/-- The invariant in phase FINISH. -/
theorem traceable_finish_iff {s : State} (hp : s.phase = .finish) :
    s.Traceable ↔ s.rspValid = false ∧ s.i = 13 ∧ ∃ c : Instr, s.holdsIterate c 14 := by
  simp [State.Traceable, hp]

/-- The invariant does not speak of the inputs to come. -/
theorem traceable_advanceInputs_iff (s : State) : s.advanceInputs.Traceable ↔ s.Traceable := Iff.rfl

theorem resetStep_traceable (s : State) : (resetStep s).Traceable := (traceable_idle_iff rfl rfl).mpr rfl

/-- Settles O45: the state after reset is what a reset step gives it. -/
theorem resetStateIsTraceable : Obligations.ResetStateIsTraceable := resetStep_traceable State.reset

theorem loadStep_traceable (c : Instr) (s : State) : (loadStep (commandMode c) (commandInit c) s).Traceable :=
  (traceable_iter_iff rfl).mpr ⟨rfl, c, (loadStep_inFlight c s).iterate⟩

/-- ITER takes the partial results of a command to its next partial results, or after iteration 13 to its final
triple (R75). -/
theorem iterStep_traceable {s : State} (hp : s.phase = .iter) (h : s.Traceable) : (iterStep s).Traceable := by
  obtain ⟨hv, c, hc⟩ := (traceable_iter_iff hp).mp h
  have hv' := (iterStep_rspValid s).trans hv
  have hnext := iterStep_holdsIterate hc
  by_cases hi : s.i = 13
  · refine (traceable_finish_iff (by simp [hi])).mpr ⟨hv', by simp [hi], c, ?_⟩
    rwa [hi] at hnext
  · refine (traceable_iter_iff (by simp [hi, hp])).mpr ⟨hv', c, ?_⟩
    rwa [iterStep_i, if_neg hi, iterIndex_succ_val hi]

/-- FINISH writes the response of the command whose final triple the registers hold (R76). -/
theorem finishStep_traceable {s : State} (hp : s.phase = .finish) (h : s.Traceable) : (finishStep s).Traceable := by
  obtain ⟨-, hi, c, hc⟩ := (traceable_finish_iff hp).mp h
  exact (traceable_answered_iff rfl rfl).mpr ⟨c, hc, hi, finishStep_response_of_holdsIterate hc⟩

/-- Settles O46: each of the five steps of R72 keeps the invariant. -/
theorem stepKeepsTraceable : Obligations.StepKeepsTraceable := by
  intro s t hs h
  have hs' : s.advanceInputs.Traceable := (traceable_advanceInputs_iff s).mpr hs
  obtain ⟨-, rfl⟩ | ⟨-, -, -, c, -, rfl⟩ | ⟨-, -, -, rfl⟩ | ⟨-, hp, rfl⟩ | ⟨-, hp, rfl⟩ := step_cases h
  · exact resetStep_traceable _
  · exact loadStep_traceable c _
  · exact hs'
  · exact iterStep_traceable hp hs'
  · exact finishStep_traceable hp hs'

end Sys2Proof.Machine
end

section
/-! Both commands from start to end (41_sin_cos.md R66; 42_atan2_sqrt.md R71): O17, O23 and O24. -/

namespace Sys2Proof.Machine

/-- A command presented in phase IDLE is loaded, and 15 edges later its whole effect is there (R49, R66, R71, R78). -/
theorem exec_completes (c : Instr) {s : State} (hp : s.phase = .idle) (hr : s.noResetFor 15) :
    ∃ t u, exec c s = .next t ∧
      t.mode = commandMode c ∧ t.triple = commandInit c ∧ t.i = 0 ∧ t.phase = .iter ∧ t.rspValid = false ∧
      t.response = s.response ∧ t.inputs = s.inputs ∧
      t.afterEdges 15 = .next u ∧
      u.r0 = (commandResponse c).r0 ∧ u.r1 = (commandResponse c).r1 ∧
      u.rspValid = true ∧ u.phase = .idle ∧ u.mode = commandMode c ∧ u.i = 13 ∧
      u.triple = cordicRun (commandMode c) (commandInit c) ∧ u.inputs = s.inputs.drop 15 := by
  obtain ⟨u, hrun, hans, hdrop⟩ := afterEdges_fifteen_of_loaded (loadStep_inFlight c s) hr
  obtain ⟨hphase, hi, hvalid, hresp, hmode, htriple⟩ := hans
  obtain ⟨hr0, hr1⟩ := Response.mk.inj hresp
  exact ⟨_, u, exec_idle c hp, rfl, loadStep_triple c s, rfl, rfl, rfl, rfl, rfl, hrun, hr0, hr1, hvalid, hphase, hmode,
    hi, htriple, hdrop⟩

/-- Settles O17: `exec_completes` for SINCOS, whose results are the narrowed final y and x. -/
theorem sincosCompletes : Obligations.SincosCompletes :=
  fun angle b _ hp hr => exec_completes (.sincos angle b) hp hr

/-- Settles O23: `exec_completes` for ATAN2SQRT, with the gain normalisation written out. -/
theorem atan2sqrtCompletes : Obligations.Atan2sqrtCompletes := by
  intro y x s hp hr
  rw [← gainNorm_eq_div]
  exact exec_completes (.atan2sqrt y x) hp hr

/-- Settles O24: the runs of the listed operands are evaluated. -/
theorem cornerCasesOfTheCommands : Obligations.CornerCasesOfTheCommands := by
  unfold Obligations.CornerCasesOfTheCommands
  decide +kernel

end Sys2Proof.Machine
end

section
/-! Bounds that hold before and after every iteration (40_cordic_engine.md R60; 10_state.md R15): O11 and O12. -/

namespace Sys2Proof.Machine

/-- Settles O11: both coordinates of every partial result are within the bound of R60. -/
theorem workingCoordinatesStayBounded : Obligations.WorkingCoordinatesStayBounded :=
  fun c _ hk => cordicUpTo_commandInit_coordinatesWithin c hk

/-- The first iterations of a run are a fold over a part of the iteration indices, so what every step keeps holds after
them. -/
theorem cordicUpTo_keeps {P : Triple → Prop} {m : Mode} {t : Triple} (k : ℕ) (h₀ : P t)
    (hstep : ∀ u i, P u → P (cordicStep m i u)) : P (cordicUpTo m t k) :=
  List.foldlRecOn _ _ h₀ fun u hu i _ => hstep u i hu

/-- A rotation keeps the angle within a quarter turn (R15). -/
theorem cordicStep_rot_quarterTurn (i : IterIndex) {t : Triple} (h : |t.z.toInt| ≤ 16384) :
    |(cordicStep .rot i t).z.toInt| ≤ 16384 := by
  have hi := atan_toNat_le i
  rw [abs_le] at h ⊢
  rcases lt_or_ge t.z.toInt 0 with hz | hz
  · rw [cordicStep_rot_of_neg i t hz, toInt_wrap16_add_atan i hz]
    omega
  · rw [cordicStep_rot_of_nonneg i t hz, toInt_wrap16_sub_atan i hz]
    omega

/-- No update of z in a rotation wraps (R15). -/
theorem cordicStep_rot_z_toInt (i : IterIndex) (t : Triple) :
    (cordicStep .rot i t).z.toInt = t.z.toInt - direction .rot t.y t.z * (atan i).toNat := by
  rcases lt_or_ge t.z.toInt 0 with hz | hz
  · rw [cordicStep_rot_of_neg i t hz, toInt_wrap16_add_atan i hz]
    simp [direction, sgn_of_neg hz]
  · rw [cordicStep_rot_of_nonneg i t hz, toInt_wrap16_sub_atan i hz]
    simp [direction, sgn_of_nonneg hz]

/-- Settles O12: every rotation keeps the angle within a quarter turn, where its update does not wrap. -/
theorem rotationAngleNeverWraps : Obligations.RotationAngleNeverWraps := by
  intro a i
  have hinit : |(sincosInit a).z.toInt| ≤ 16384 := by
    obtain ⟨hlo, hhi⟩ := sincosInit_z_bounds a
    exact abs_le.mpr ⟨hlo, hhi.trans (by norm_num)⟩
  have hbefore : |(cordicUpTo .rot (sincosInit a) i).z.toInt| ≤ 16384 :=
    cordicUpTo_keeps (P := fun t => |t.z.toInt| ≤ 16384) i hinit fun _ j => cordicStep_rot_quarterTurn j
  exact ⟨hbefore, cordicStep_rot_z_toInt i _, cordicStep_rot_quarterTurn i hbefore⟩

end Sys2Proof.Machine
end

section
/-! The magnitude against the length of the vector (42_atan2_sqrt.md R67; 70_reset_and_hazards.md R100): O21 and O22.
Vectoring turns the vector towards the x axis: after iteration k the residual |y| is at most x / 2^k, up to an error of
1 for the floor of each iteration. So the final x is the length of the final vector to within 22, and that length is
known from R60. -/

namespace Sys2Proof.Machine

/-- After iteration 0 the vector lies within an eighth of a turn of the x axis. -/
theorem abs_cordicStep_vec_zero_y_le {t : Triple} (hx : 0 ≤ t.x) :
    |(cordicStep .vec 0 t).y| ≤ (cordicStep .vec 0 t).x := by
  rw [abs_le]
  rcases lt_or_ge t.y 0 with hy | hy
  · rw [cordicStep_vec_of_neg 0 t hy]
    simp only [Fin.val_zero, asr_zero]
    omega
  · rw [cordicStep_vec_of_nonneg 0 t hy]
    simp only [Fin.val_zero, asr_zero]
    omega

/-- asr is below the quotient, by less than 1 (R10). -/
theorem asr_mul_bounds (v : ℤ) (k : ℕ) : 2 ^ k * asr v k ≤ v ∧ v < 2 ^ k * asr v k + 2 ^ k := by
  have hpos : (0 : ℤ) < 2 ^ k := by positivity
  rw [asr_eq_div]
  exact ⟨Int.mul_ediv_self_le hpos.ne', Int.lt_mul_ediv_self_add hpos⟩

/-- Iteration i halves the slope |y| / x that iteration i - 1 reached, with 1 for the floor. -/
theorem abs_cordicStep_vec_y_le (i : IterIndex) {t : Triple} {e : ℤ} (he : 0 ≤ e)
    (h : 2 ^ (i : ℕ) * |t.y| ≤ 2 * t.x + 2 ^ (i : ℕ) * e) :
    2 ^ (i : ℕ) * |(cordicStep .vec i t).y| ≤ (cordicStep .vec i t).x + 2 ^ (i : ℕ) * (e + 1) := by
  have hpos : (0 : ℤ) < 2 ^ (i : ℕ) := by positivity
  have hmono := le_cordicStep_vec_x i t
  obtain ⟨hlo, hhi⟩ := asr_mul_bounds t.x i
  have hslack := mul_nonneg hpos.le he
  have habs (v : ℤ) : 2 ^ (i : ℕ) * |v| = |2 ^ (i : ℕ) * v| := by rw [abs_mul, abs_of_pos hpos]
  rw [habs, abs_le] at h ⊢
  rcases lt_or_ge t.y 0 with hy | hy
  · have hy' : 2 ^ (i : ℕ) * t.y < 0 := mul_neg_of_pos_of_neg hpos hy
    rw [cordicStep_vec_of_neg i t hy] at hmono ⊢
    dsimp only at hmono ⊢
    constructor <;> linarith
  · have hy' : 0 ≤ 2 ^ (i : ℕ) * t.y := mul_nonneg hpos.le hy
    rw [cordicStep_vec_of_nonneg i t hy] at hmono ⊢
    dsimp only at hmono ⊢
    constructor <;> linarith

/-- The residual y after iteration k. -/
theorem abs_cordicUpTo_vec_y_le {t : Triple} (hx : 0 ≤ t.x) {k : ℕ} (hk : k < 14) :
    2 ^ k * |(cordicUpTo .vec t (k + 1)).y| ≤ (cordicUpTo .vec t (k + 1)).x + 2 ^ k * k := by
  induction k with
  | zero =>
    have hfirst : cordicUpTo .vec t (0 + 1) = cordicStep .vec 0 t := cordicUpTo_succ .vec t 0
    simpa [hfirst] using abs_cordicStep_vec_zero_y_le hx
  | succ k ih =>
    have hbefore : 2 ^ (k + 1) * |(cordicUpTo .vec t (k + 1)).y| ≤
        2 * (cordicUpTo .vec t (k + 1)).x + 2 ^ (k + 1) * (k : ℤ) := by
      rw [pow_succ]
      linarith [ih (by omega)]
    have hstep := abs_cordicStep_vec_y_le ⟨k + 1, hk⟩ (Nat.cast_nonneg k) hbefore
    rw [← cordicUpTo_succ] at hstep
    exact_mod_cast hstep

/-- The final y of ATAN2SQRT is at most 22 in magnitude. -/
theorem abs_atan2_y_le (y x : Word16) : |(cordicRun .vec (atan2Init y x)).y| ≤ 22 := by
  have hy := abs_cordicUpTo_vec_y_le (atan2Init_x_nonneg y x) (k := 13) (by norm_num)
  rw [← cordicRun_eq_upTo] at hy
  obtain ⟨-, -, hx⟩ := atan2_x_bounds y x
  push_cast at hy
  omega

/-- The final x of ATAN2SQRT is the length of the final vector, to within its final y. -/
theorem atan2_x_near_norm (y x : Word16) :
    ‖(cordicRun .vec (atan2Init y x)).point‖ - 22 ≤ (cordicRun .vec (atan2Init y x)).x ∧
    ((cordicRun .vec (atan2Init y x)).x : ℝ) ≤ ‖(cordicRun .vec (atan2Init y x)).point‖ := by
  obtain ⟨hinit, hmono, -⟩ := atan2_x_bounds y x
  have hx : (0 : ℝ) ≤ (cordicRun .vec (atan2Init y x)).x := by exact_mod_cast hinit.trans hmono
  have hy : |((cordicRun .vec (atan2Init y x)).y : ℝ)| ≤ 22 := by exact_mod_cast abs_atan2_y_le y x
  have hnorm := Complex.norm_le_abs_re_add_abs_im (cordicRun .vec (atan2Init y x)).point
  rw [point_re, point_im, abs_of_nonneg hx] at hnorm
  exact ⟨by linarith, Complex.re_le_norm (cordicRun .vec (atan2Init y x)).point⟩

/-- The initial vector of ATAN2SQRT is as long as (x, y): the half turn keeps the length (R68). -/
theorem norm_atan2Init (y x : Word16) :
    ‖(atan2Init y x).point‖ = Real.sqrt ((x.toInt : ℝ) ^ 2 + (y.toInt : ℝ) ^ 2) := by
  rw [Complex.norm_eq_sqrt_sq_add_sq, point_re, point_im]
  rcases lt_or_ge x.toInt 0 with h | h
  · simp [atan2Init_of_neg y h]
  · rw [atan2Init_of_nonneg y h]

/-- The gain normalisation as a real number: the quotient, less a fraction of 1 (R69). -/
theorem gainNorm_near_quotient (n : ℤ) :
    (n : ℝ) * 19898 / 32768 - 1 ≤ gainNorm n ∧ (gainNorm n : ℝ) ≤ n * 19898 / 32768 := by
  obtain ⟨hlo, hhi⟩ := asr_mul_bounds (n * kVec) kVecShift
  have hlo' : (32768 * gainNorm n : ℝ) ≤ n * 19898 := by exact_mod_cast hlo
  have hhi' : (n * 19898 : ℝ) < 32768 * gainNorm n + 32768 := by exact_mod_cast hhi
  constructor <;> linarith

/-- Settles O21: the final x is A times the length, to within the 28 A of the floors and the 22 of the residual y, and
K_VEC divides by A. -/
theorem magnitudeApproximatesLength : Obligations.MagnitudeApproximatesLength := by
  intro y x
  rw [← norm_atan2Init]
  have hlen : ‖(atan2Init y x).point‖ ≤ 46341 := norm_commandInit_le (.atan2sqrt y x)
  obtain ⟨hrunlo, hrunhi⟩ := abs_le.mp (abs_norm_cordicRun_sub_le .vec (atan2Init y x))
  obtain ⟨hxlo, hxhi⟩ := atan2_x_near_norm y x
  obtain ⟨hglo, hghi⟩ := gainNorm_near_quotient (cordicRun .vec (atan2Init y x)).x
  obtain ⟨hAlo, hAhi⟩ := cordicGain_bounds
  have hlo := mul_le_mul_of_nonneg_right hAlo.le (norm_nonneg (atan2Init y x).point)
  have hhi := mul_le_mul_of_nonneg_right hAhi.le (norm_nonneg (atan2Init y x).point)
  rw [abs_le]
  constructor <;> linarith

/-- Settles O22: by O21 the magnitude is at most 32764, which 16 bits hold (O20). -/
theorem lengthsUpTo32700DoNotWrap : Obligations.LengthsUpTo32700DoNotWrap := by
  intro y x h
  have hnear := magnitudeApproximatesLength y x
  have hlen : Real.sqrt ((x.toInt : ℝ) ^ 2 + (y.toInt : ℝ) ^ 2) ≤ 32700 :=
    Real.sqrt_le_iff.mpr ⟨by norm_num, by exact_mod_cast h⟩
  have hle : (gainNorm (cordicRun .vec (atan2Init y x)).x : ℝ) ≤ 32767 := by linarith [(abs_le.mp hnear).2]
  obtain ⟨-, hfits, -⟩ := magnitudeWrapsWithoutSaturation.1 y x
  have heq : (atan2sqrt y x).r1.toInt = gainNorm (cordicRun .vec (atan2Init y x)).x := hfits (by exact_mod_cast hle)
  obtain ⟨hinit, hmono, hx⟩ := atan2_x_bounds y x
  exact ⟨heq, heq ▸ (gainNorm_bounds (hinit.trans hmono) hx).1, heq ▸ hnear⟩

end Sys2Proof.Machine
end

section
/-! The results of SINCOS against the real sine and cosine (41_sin_cos.md R63): O16. A rotation turns (x, y) by the
arctangents of its iterations, and z keeps account of them in the table's units: to within half a unit at each
iteration, z falls by what the vector turns. -/

namespace Sys2Proof.Machine

/-- One unit of an angle in radians (R12). -/
noncomputable def angleUnit : ℝ := 2 * Real.pi / 65536

theorem angleUnit_pos : 0 < angleUnit := by
  have := Real.pi_pos
  unfold angleUnit
  positivity

/-- The ideal factor of an iteration is its gain and a turn by the arctangent of d * 2^-i. -/
theorem idealFactor_eq {d : ℤ} (hd : d = 1 ∨ d = -1) (i : ℕ) :
    idealFactor d i = stepGain i * Complex.exp (Real.arctan (d * (2 : ℝ)⁻¹ ^ i) * Complex.I) := by
  have hsq : 1 + (d * (2 : ℝ)⁻¹ ^ i) ^ 2 = 1 + (2 : ℝ)⁻¹ ^ (2 * i) := by
    rcases hd with rfl | rfl <;> push_cast <;> ring
  have hgain : stepGain i ≠ 0 := (zero_lt_one.trans_le (one_le_stepGain i)).ne'
  rw [stepGain] at hgain
  apply Complex.ext
  · rw [Complex.re_ofReal_mul, Complex.exp_ofReal_mul_I_re, Real.cos_arctan, hsq, stepGain, mul_one_div_cancel hgain]
    rfl
  · rw [Complex.im_ofReal_mul, Complex.exp_ofReal_mul_I_im, Real.sin_arctan, hsq, stepGain, mul_div_cancel₀ _ hgain]
    rfl

/-- What one iteration turns is what z falls by, to within half a unit of the table (R30). -/
theorem abs_arctan_sub_atan_le {d : ℤ} (hd : d = 1 ∨ d = -1) (i : IterIndex) :
    |Real.arctan (d * (2 : ℝ)⁻¹ ^ (i : ℕ)) - angleUnit * (d * (atan i).toNat)| ≤ angleUnit * (1 / 2) := by
  have htable := tableEntriesAreNearestArctangents i
  have hunit : Real.arctan ((2 : ℝ)⁻¹ ^ (i : ℕ)) =
      angleUnit * (Real.arctan ((2 : ℝ)⁻¹ ^ (i : ℕ)) * 65536 / (2 * Real.pi)) := by
    have := Real.pi_ne_zero
    unfold angleUnit
    field_simp
  have hentry : |Real.arctan ((2 : ℝ)⁻¹ ^ (i : ℕ)) - angleUnit * (atan i).toNat| ≤ angleUnit * (1 / 2) := by
    rw [hunit, ← mul_sub, abs_mul, abs_of_pos angleUnit_pos, abs_sub_comm]
    exact mul_le_mul_of_nonneg_left htable.le angleUnit_pos.le
  rcases hd with rfl | rfl
  · simpa using hentry
  · rw [abs_sub_comm] at hentry
    simpa [Real.arctan_neg, sub_eq_add_neg, add_comm] using hentry

/-- The angle by which iteration i of a rotation turns (x, y). -/
noncomputable def turnOf (i : IterIndex) (t : Triple) : ℝ :=
  Real.arctan (direction .rot t.y t.z * (2 : ℝ)⁻¹ ^ (i : ℕ))

/-- After k iterations (x, y) is the initial vector, enlarged by the gain and turned by an angle `φ`, to within the
error of the floors; and z has fallen by `φ`, to within half a unit for each iteration. -/
structure Triple.TurnedBy (t₀ t : Triple) (k : ℕ) (φ : ℝ) : Prop where
  point : ‖t.point - gainUpTo k * (Complex.exp (φ * Complex.I) * t₀.point)‖ ≤ gainUpTo k * (2 * k)
  angle : |φ - angleUnit * (t₀.z.toInt - t.z.toInt)| ≤ angleUnit * (k / 2)

theorem turnedBy_zero (t : Triple) : t.TurnedBy t 0 0 := by
  constructor <;> simp [gainUpTo]

/-- The error after an iteration is the iteration's own and the error before it, carried on by the ideal factor. -/
theorem cordicStep_sub_turned (i : IterIndex) (t : Triple) (p : ℂ) (φ : ℝ) :
    (cordicStep .rot i t).point - gainUpTo (i + 1) * (Complex.exp ((φ + turnOf i t : ℝ) * Complex.I) * p) =
      ((cordicStep .rot i t).point - idealFactor (direction .rot t.y t.z) i * t.point) +
        idealFactor (direction .rot t.y t.z) i * (t.point - gainUpTo i * (Complex.exp (φ * Complex.I) * p)) := by
  rw [idealFactor_eq (direction_cases .rot t.y t.z), gainUpTo_succ, turnOf]
  push_cast
  rw [add_mul, Complex.exp_add]
  ring

/-- Iteration i turns by the arctangent of its direction. -/
theorem cordicStep_turnedBy {t₀ t : Triple} {φ : ℝ} (i : IterIndex) (h : t₀.TurnedBy t i φ) :
    t₀.TurnedBy (cordicStep .rot i t) (i + 1) (φ + turnOf i t) := by
  obtain ⟨hpoint, hangle⟩ := h
  have hd := direction_cases .rot t.y t.z
  constructor
  case point =>
    have hgain := one_le_gainUpTo (i + 1)
    calc _ ≤ 2 + stepGain i * (gainUpTo i * (2 * (i : ℕ))) := by
          rw [cordicStep_sub_turned]
          refine (norm_add_le _ _).trans (add_le_add (norm_cordicStep_sub_le .rot i t) ?_)
          rw [norm_mul, norm_idealFactor hd]
          exact mul_le_mul_of_nonneg_left hpoint (zero_le_one.trans (one_le_stepGain i))
      _ = 2 + gainUpTo (i + 1) * (2 * (i : ℕ)) := by rw [gainUpTo_succ, mul_assoc]
      _ ≤ gainUpTo (i + 1) * (2 * (i + 1 : ℕ)) := by push_cast; linarith
  case angle =>
    have hentry := abs_arctan_sub_atan_le hd i
    rw [cordicStep_rot_z_toInt, turnOf]
    rw [abs_le] at hangle hentry ⊢
    push_cast
    constructor <;> linarith

/-- The first k iterations in ROT mode turn the vector by some angle. -/
theorem exists_turnedBy_cordicUpTo (t : Triple) {k : ℕ} (hk : k ≤ 14) : ∃ φ, t.TurnedBy (cordicUpTo .rot t k) k φ := by
  induction k with
  | zero => exact ⟨0, turnedBy_zero t⟩
  | succ k ih =>
    obtain ⟨φ, h⟩ := ih (by omega)
    exact ⟨_, cordicUpTo_succ .rot t ⟨k, hk⟩ ▸ cordicStep_turnedBy ⟨k, hk⟩ h⟩

/-- Two turns differ by no more than their angles. -/
theorem norm_exp_sub_exp_le (φ ψ : ℝ) :
    ‖Complex.exp (φ * Complex.I) - Complex.exp (ψ * Complex.I)‖ ≤ |φ - ψ| := by
  have hfactor : Complex.exp (φ * Complex.I) - Complex.exp (ψ * Complex.I) =
      Complex.exp (ψ * Complex.I) * (Complex.exp (Complex.I * (φ - ψ : ℝ)) - 1) := by
    rw [mul_sub_one, ← Complex.exp_add]
    push_cast
    ring_nf
  rw [hfactor, norm_mul, Complex.norm_exp_ofReal_mul_I, one_mul]
  exact Real.norm_exp_I_mul_ofReal_sub_one_le

/-- An angle with half a turn more or less points the other way. -/
theorem exp_angleUnit_halfTurn {a b : ℤ} (h : b = a + 32768 ∨ b = a - 32768) :
    Complex.exp ((angleUnit * b : ℝ) * Complex.I) = -Complex.exp ((angleUnit * a : ℝ) * Complex.I) := by
  have hhalf : angleUnit * 32768 = Real.pi := by
    unfold angleUnit
    ring
  rcases h with rfl | rfl
  · have hb : angleUnit * (a + 32768 : ℤ) = angleUnit * a + Real.pi := by rw [← hhalf]; push_cast; ring
    rw [hb, Complex.ofReal_add, add_mul, Complex.exp_add, Complex.exp_pi_mul_I, mul_neg_one]
  · have hb : angleUnit * (a - 32768 : ℤ) = angleUnit * a - Real.pi := by rw [← hhalf]; push_cast; ring
    rw [hb, Complex.ofReal_sub, sub_mul, Complex.exp_sub, Complex.exp_pi_mul_I, div_neg, div_one]

/-- The initial vector, turned by the initial angle, is K_ROT in the direction of the operand: the half turn of R64 is
taken back by the opposite start vector. -/
theorem exp_mul_sincosInit_point (a : Word16) :
    Complex.exp ((angleUnit * (sincosInit a).z.toInt : ℝ) * Complex.I) * (sincosInit a).point =
      18218 * Complex.exp ((angleUnit * a.toInt : ℝ) * Complex.I) := by
  cases h : sincosFlip a with
  | false =>
    have hpoint : (sincosInit a).point = 18218 := by rw [sincosInit_of_not_flip h]; apply Complex.ext <;> simp
    rw [hpoint, sincosInit_of_not_flip h, mul_comm]
  | true =>
    have hpoint : (sincosInit a).point = -18218 := by rw [sincosInit_of_flip h]; apply Complex.ext <;> simp
    have hz : (sincosInit a).z.toInt = a.toInt + 32768 ∨ (sincosInit a).z.toInt = a.toInt - 32768 := by
      have ha := toInt16_bounds a
      rw [sincosInit_of_flip h, wrap16_toInt, Int.bmod_def]
      omega
    rw [hpoint, exp_angleUnit_halfTurn hz]
    ring

theorem norm_sincosInit_point (a : Word16) : ‖(sincosInit a).point‖ = 18218 := by
  have h := congrArg norm (exp_mul_sincosInit_point a)
  simpa only [norm_mul, Complex.norm_exp_ofReal_mul_I, one_mul, mul_one, Complex.norm_ofNat] using h

/-- The angle by which SINCOS turns its initial vector is the initial angle, to within 9 units: half a unit for each
iteration and 2 for the residual angle. -/
theorem abs_turn_sub_le {a : Word16} {φ : ℝ} (h : (sincosInit a).TurnedBy (cordicRun .rot (sincosInit a)) 14 φ) :
    |φ - angleUnit * (sincosInit a).z.toInt| ≤ 9 * angleUnit := by
  have hangle := h.angle
  obtain ⟨hlo, hhi⟩ := sincosInit_z_bounds a
  obtain ⟨hreslo, hreshi⟩ := cordicRun_rot_residual hlo hhi
  have hres : |angleUnit * ((cordicRun .rot (sincosInit a)).z.toInt : ℝ)| ≤ angleUnit * 2 := by
    rw [abs_mul, abs_of_pos angleUnit_pos]
    refine mul_le_mul_of_nonneg_left ?_ angleUnit_pos.le
    exact_mod_cast abs_le.mpr ⟨hreslo, hreshi.trans one_le_two⟩
  rw [abs_le] at hangle hres ⊢
  push_cast at hangle
  constructor <;> linarith

/-- The final vector of SINCOS is the unit vector of its operand times 30000, to within 300: 28 A for the floors, 9
units of angle, and the rounding of K_ROT. -/
theorem norm_sincos_point_sub_le (a : Word16) :
    ‖(cordicRun .rot (sincosInit a)).point -
      (30000 : ℝ) * Complex.exp ((angleUnit * a.toInt : ℝ) * Complex.I)‖ ≤ 300 := by
  obtain ⟨φ, hturn⟩ := exists_turnedBy_cordicUpTo (sincosInit a) (le_refl 14)
  rw [← cordicRun_eq_upTo] at hturn
  have hangle := abs_turn_sub_le hturn
  have hpoint := hturn.point
  rw [gainUpTo_fourteen] at hpoint
  have htarget := exp_mul_sincosInit_point a
  have hsplit : (cordicRun .rot (sincosInit a)).point -
      (30000 : ℝ) * Complex.exp ((angleUnit * a.toInt : ℝ) * Complex.I) =
      ((cordicRun .rot (sincosInit a)).point - cordicGain * (Complex.exp (φ * Complex.I) * (sincosInit a).point)) +
      cordicGain * ((Complex.exp (φ * Complex.I) -
        Complex.exp ((angleUnit * (sincosInit a).z.toInt : ℝ) * Complex.I)) * (sincosInit a).point) +
      (cordicGain * 18218 - 30000 : ℝ) * Complex.exp ((angleUnit * a.toInt : ℝ) * Complex.I) := by
    push_cast at htarget ⊢
    linear_combination cordicGain * htarget
  have hturned := (norm_exp_sub_exp_le φ _).trans hangle
  obtain ⟨hAlo, hAhi⟩ := cordicGain_bounds
  have hrounding : |cordicGain * 18218 - 30000| ≤ 1 := abs_le.mpr ⟨by linarith, by linarith⟩
  have hunit : angleUnit ≤ 1 / 10000 := by
    unfold angleUnit
    linarith [Real.pi_lt_d6]
  calc _ ≤ cordicGain * (2 * (14 : ℕ)) + cordicGain * (9 * angleUnit * 18218) + 1 := by
        rw [hsplit]
        refine (norm_add₃_le ..).trans (add_le_add_three hpoint ?_ ?_)
        · rw [norm_mul, norm_mul, Complex.norm_real, Real.norm_of_nonneg cordicGain_pos.le, norm_sincosInit_point]
          gcongr
        · rwa [norm_mul, Complex.norm_exp_ofReal_mul_I, mul_one, Complex.norm_real, Real.norm_eq_abs]
    _ ≤ 1.646760255 * (2 * (14 : ℕ)) + 1.646760255 * (9 * (1 / 10000) * 18218) + 1 := by
        gcongr
        linarith [angleUnit_pos]
    _ ≤ 300 := by norm_num

/-- Settles O16: the coordinates of the final vector, which the narrowing does not change (O14). -/
theorem sincosApproximatesSineAndCosine : Obligations.SincosApproximatesSineAndCosine := by
  intro a
  have hnorm := norm_sincos_point_sub_le a
  have hangle : 2 * Real.pi * (a.toInt : ℝ) / 65536 = angleUnit * a.toInt := by
    unfold angleUnit
    ring
  obtain ⟨hsin, hcos⟩ := sincosResult_toInt_of_within (sincos_coordinatesWithin a)
  rw [hangle, sincos, hsin, hcos]
  constructor
  · have him := (Complex.abs_im_le_norm _).trans hnorm
    rwa [Complex.sub_im, Complex.im_ofReal_mul, Complex.exp_ofReal_mul_I_im, point_im] at him
  · have hre := (Complex.abs_re_le_norm _).trans hnorm
    rwa [Complex.sub_re, Complex.re_ofReal_mul, Complex.exp_ofReal_mul_I_re, point_re] at hre

end Sys2Proof.Machine
end

section
/-! The amplitude of SINCOS (41_sin_cos.md R66, corner case 3): O15. Both bounds are exact figures over all operands, so
they need the runs themselves, over the parts of the angle range as in O14. A part is settled when the length of (x, y)
is so far inside the bounds that the floors of the iterations left, with an error of at most 2 for each, cannot carry it
out of them; this is so some three iterations before the end. -/

namespace Sys2Proof.Machine

/-- The rotation by the iterations `is` from (x, y), for every angle from `lo` to `hi`, is settled at once, or it is in
the part of the angles that turns counter-clockwise and in the part that turns clockwise. -/
def rotationsSettled (settled : List IterIndex → (x y : ℤ) → Bool) : List IterIndex → (x y lo hi : ℤ) → Bool
  | [], x, y, _, _ => settled [] x y
  | i :: is, x, y, lo, hi =>
    settled (i :: is) x y ||
      ((hi < 0 ||
          rotationsSettled settled is (x - asr y i) (y + asr x i) (max lo 0 - (atan i).toNat) (hi - (atan i).toNat)) &&
        (0 ≤ lo ||
          rotationsSettled settled is (x + asr y i) (y - asr x i) (lo + (atan i).toNat)
            (min hi (-1) + (atan i).toNat)))

/-- What a settled start gives for its final triple holds for every angle of a range whose rotations are settled. -/
theorem foldl_rot_of_rotationsSettled {settled : List IterIndex → (x y : ℤ) → Bool} {P : Triple → Prop}
    (hP : ∀ is x y z, settled is x y = true → P (is.foldl (fun u i => cordicStep .rot i u) ⟨x, y, z⟩))
    {is : List IterIndex} {x y lo hi : ℤ} {z : Word16} (h : rotationsSettled settled is x y lo hi = true)
    (hlo : lo ≤ z.toInt) (hhi : z.toInt ≤ hi) : P (is.foldl (fun u i => cordicStep .rot i u) ⟨x, y, z⟩) := by
  induction is generalizing x y lo hi z with
  | nil => exact hP [] x y z h
  | cons i is ih =>
    simp only [rotationsSettled, Bool.or_eq_true, Bool.and_eq_true, decide_eq_true_eq] at h
    rcases h with hsettled | ⟨hccw, hcw⟩
    · exact hP (i :: is) x y z hsettled
    rw [List.foldl_cons]
    rcases lt_or_ge z.toInt 0 with hz | hz
    · have hnext := toInt_wrap16_add_atan i hz
      rw [cordicStep_rot_of_neg i ⟨x, y, z⟩ hz]
      exact ih (hcw.resolve_left (by omega)) (by rw [hnext]; omega) (by rw [hnext]; omega)
    · have hnext := toInt_wrap16_sub_atan i hz
      rw [cordicStep_rot_of_nonneg i ⟨x, y, z⟩ hz]
      exact ih (hccw.resolve_left (by omega)) (by rw [hnext]; omega) (by rw [hnext]; omega)

/-- The length of (x, y) lies in 29992.5..30008.3, narrowed by what `r` more iterations can do to it. -/
def Triple.AmplitudeWithin (t : Triple) (r : ℕ) : Prop :=
  59985 + 4 * r ≤ 2 * ‖t.point‖ ∧ 10 * ‖t.point‖ + 21 * r ≤ 300083

/-- From iteration 9 on the gain of an iteration is too small to count. -/
theorem stepGain_le_of_late {i : IterIndex} (hi : 9 ≤ i) : stepGain i ≤ 1 + 1 / 2 ^ 19 := by
  have hpow : (2 : ℝ)⁻¹ ^ (2 * (i : ℕ)) ≤ 2⁻¹ ^ 18 :=
    pow_le_pow_of_le_one (by norm_num) (by norm_num) (by have : 9 ≤ (i : ℕ) := hi; omega)
  rw [stepGain, Real.sqrt_le_iff]
  exact ⟨by norm_num, by norm_num at hpow ⊢; linarith⟩

theorem cordicStep_amplitudeWithin {m : Mode} {t : Triple} {r : ℕ} {i : IterIndex} (hi : 9 ≤ i)
    (h : t.AmplitudeWithin (r + 1)) : (cordicStep m i t).AmplitudeWithin r := by
  obtain ⟨hlo, hhi⟩ := h
  obtain ⟨hsteplo, hstephi⟩ := abs_le.mp (abs_norm_cordicStep_sub_le m i t)
  have hgainlo := mul_le_mul_of_nonneg_right (one_le_stepGain i) (norm_nonneg t.point)
  have hgainhi := mul_le_mul_of_nonneg_right (stepGain_le_of_late hi) (norm_nonneg t.point)
  push_cast at hlo hhi
  have hr : (0 : ℝ) ≤ r := r.cast_nonneg
  constructor <;> linarith

theorem foldl_amplitudeWithin {m : Mode} {t : Triple} {is : List IterIndex} (his : ∀ i ∈ is, 9 ≤ i)
    (h : t.AmplitudeWithin is.length) : (is.foldl (fun u i => cordicStep m i u) t).AmplitudeWithin 0 := by
  induction is generalizing t with
  | nil => exact h
  | cons i is ih =>
    obtain ⟨hi, his⟩ := List.forall_mem_cons.mp his
    exact ih his (cordicStep_amplitudeWithin hi h)

/-- The length by its square. -/
theorem amplitudeWithin_iff {t : Triple} {r : ℕ} (hr : r ≤ 5) :
    t.AmplitudeWithin r ↔
      (59985 + 4 * r) ^ 2 ≤ 4 * (t.x ^ 2 + t.y ^ 2) ∧ 100 * (t.x ^ 2 + t.y ^ 2) ≤ (300083 - 21 * r) ^ 2 := by
  have hsq : ‖t.point‖ ^ 2 = t.x ^ 2 + t.y ^ 2 := by
    rw [Complex.sq_norm, Complex.normSq_apply, point_re, point_im]
    ring
  have hr' : (r : ℝ) ≤ 5 := by exact_mod_cast hr
  have hlo : 59985 + 4 * (r : ℝ) ≤ 2 * ‖t.point‖ ↔ (59985 + 4 * (r : ℝ)) ^ 2 ≤ 4 * (t.x ^ 2 + t.y ^ 2) := by
    rw [← sq_le_sq₀ (by positivity) (by positivity), mul_pow, hsq]
    norm_num
  have hhi : 10 * ‖t.point‖ + 21 * (r : ℝ) ≤ 300083 ↔ 100 * ((t.x : ℝ) ^ 2 + t.y ^ 2) ≤ (300083 - 21 * r) ^ 2 := by
    rw [← le_sub_iff_add_le, ← sq_le_sq₀ (by positivity) (by linarith), mul_pow, hsq]
    norm_num
  rw [Triple.AmplitudeWithin, hlo, hhi]
  rw [← Int.cast_le (R := ℝ), ← Int.cast_le (R := ℝ)]
  push_cast
  rfl

/-- No choice of the directions of the iterations `is` can carry the length of (x, y) out of 29992.5..30008.3. -/
def amplitudeSettled (is : List IterIndex) (x y : ℤ) : Bool :=
  is.length ≤ 5 && is.all (9 ≤ ·) && (59985 + 4 * is.length : ℤ) ^ 2 ≤ 4 * (x ^ 2 + y ^ 2) &&
    100 * (x ^ 2 + y ^ 2) ≤ (300083 - 21 * is.length : ℤ) ^ 2

theorem foldl_amplitudeWithin_of_settled (is : List IterIndex) (x y : ℤ) (z : Word16)
    (h : amplitudeSettled is x y = true) :
    (is.foldl (fun u i => cordicStep .rot i u) ⟨x, y, z⟩).AmplitudeWithin 0 := by
  simp only [amplitudeSettled, Bool.and_eq_true, decide_eq_true_eq, List.all_eq_true] at h
  obtain ⟨⟨⟨hlen, hlate⟩, hlo⟩, hhi⟩ := h
  exact foldl_amplitudeWithin hlate ((amplitudeWithin_iff hlen).mpr ⟨hlo, hhi⟩)

/-- The two start vectors with every angle the rotation can start from. -/
theorem amplitudesSettled_of_startVectors :
    rotationsSettled amplitudeSettled iterationOrder 18218 0 (-16384) 16383 = true ∧
    rotationsSettled amplitudeSettled iterationOrder (-18218) 0 (-16384) 16383 = true := by
  decide +kernel

/-- The final vector of SINCOS has a length in 29992.5..30008.3 (R66). -/
theorem sincos_amplitudeWithin (a : Word16) : (cordicRun .rot (sincosInit a)).AmplitudeWithin 0 := by
  obtain ⟨hright, hleft⟩ := amplitudesSettled_of_startVectors
  obtain ⟨hlo, hhi⟩ := sincosInit_z_bounds a
  cases h : sincosFlip a with
  | false =>
    rw [sincosInit_of_not_flip h] at hlo hhi ⊢
    exact foldl_rot_of_rotationsSettled (P := (·.AmplitudeWithin 0)) foldl_amplitudeWithin_of_settled hright hlo hhi
  | true =>
    rw [sincosInit_of_flip h] at hlo hhi ⊢
    exact foldl_rot_of_rotationsSettled (P := (·.AmplitudeWithin 0)) foldl_amplitudeWithin_of_settled hleft hlo hhi

/-- Settles O15: the square of the length of the final vector, whose coordinates the narrowing does not change (O14). -/
theorem sincosAmplitudeIsNearUnit : Obligations.SincosAmplitudeIsNearUnit := by
  intro a q
  obtain ⟨hsin, hcos⟩ := sincosResult_toInt_of_within (sincos_coordinatesWithin a)
  obtain ⟨hlo, hhi⟩ := (amplitudeWithin_iff (Nat.zero_le 5)).mp (sincos_amplitudeWithin a)
  have hq : q = (cordicRun .rot (sincosInit a)).x ^ 2 + (cordicRun .rot (sincosInit a)).y ^ 2 := by
    rw [← hsin, ← hcos, add_comm]
    rfl
  rw [← hq] at hlo hhi
  norm_num at hlo hhi ⊢
  refine ⟨hlo, hhi, ?_⟩
  have habs : |q - 900000000| ≤ 9000000 := abs_le.mpr ⟨by linarith, by linarith⟩
  linarith

end Sys2Proof.Machine
end
